-- ==== Sys2Proof/Word.lean ====
section
/-! DEFINITION. The two word types of the block (00_scope R10, 40_crc R100) and byte sequences (R11). -/

namespace Sys2Proof

/-- A byte, value 0 to 255, bit 0 least significant (R10). -/
abbrev Byte := BitVec 8

/-- The 16-bit value of the CRC unit (R100). -/
abbrev Word16 := BitVec 16

/-- A byte sequence: a frame, a payload, the argument of a CRC function (R11). -/
abbrev Bytes := List Byte

end Sys2Proof
end

