-- ==== Sys2Proof/Config.lean ====
section
/-! DEFINITION. What is fixed for one block: the address, the protocol constants and the parameters of
00_scope R5 to R8, and the free choices the spec leaves to nobody. The legal values of `KIND`, `OP` and the
diagnostics stand here because the configuration names one of them. -/

namespace Sys2Proof

/-- The legal values of `OP` (10_state R28). -/
inductive OpState where
  | idle
  | opening
  | closing
  deriving DecidableEq, Repr, Inhabited

/-- The legal values of `KIND` (10_state R27). -/
inductive ReqKind where
  | getPosition
  | getStatus
  deriving DecidableEq, Repr, Inhabited

/-- The four control sub-commands (00_scope R6, 30_encoding R71). -/
inductive SubCommand where
  | stop
  | open
  | close
  | setPosition
  deriving DecidableEq, Repr, Inhabited

/-- The two diagnostics the block can emit (30_encoding R81, 60_exceptions R193). -/
inductive DiagKind where
  | malformedResponse
  | malformedStatus
  deriving DecidableEq, Repr, Inhabited

/-- The supported features a capability set can name (10_state R32). -/
inductive Capability where
  | position
  deriving DecidableEq, Repr, Inhabited

/-- The configuration of one block: `ADDR` (R5), the protocol constants (R6), and the remaining parameters of R8.
It is carried in the state, and no step writes it (10_state R26, 20_memory R65): log entry 2. -/
structure Config where
  startMarker       : Byte
  classControl      : Byte
  classRead         : Byte
  subStop           : Byte
  subOpen           : Byte
  subClose          : Byte
  subSetPosition    : Byte
  kindGetPosition   : Byte
  kindGetStatus     : Byte
  /-- `STATUS_VALUE_OFFSET`, the frame byte index of the value byte of a status frame: 8 bits, as every parameter of
  R6. -/
  statusValueOffset : Byte
  addr0             : Byte
  addr1             : Byte
  /-- `RXBUF_CAP`: none is the unbounded buffer of the source (D8). -/
  rxbufCap          : Option Nat
  /-- `OP_INIT` (D9). -/
  opInit            : OpState
  /-- `POS_INIT` (D9). -/
  posInit           : Rat
  deriving DecidableEq, Repr, Inhabited

/-- A finite capacity is at least 7 (R8). -/
def Config.capOk : Option Nat → Bool
  | none   => true
  | some n => 7 ≤ n

/-- The constraints of R7, and those R8 puts on `RXBUF_CAP` and `POS_INIT`. -/
def Config.valid (c : Config) : Bool :=
  c.classControl ≠ c.classRead
  && decide [c.subStop, c.subOpen, c.subClose, c.subSetPosition].Nodup
  && c.kindGetPosition ≠ c.kindGetStatus
  && 4 ≤ c.statusValueOffset.toNat
  && Config.capOk c.rxbufCap
  && decide (0 ≤ c.posInit)
  && decide (c.posInit ≤ 1)

/-- The reference configuration `REFCFG` of R6 (from general knowledge, for test vectors only), with the address
`(01, 02)` and the start values the vectors of 95_test_vectors use. No rule depends on it. -/
def Config.ref : Config where
  startMarker       := 0x55
  classControl      := 0x03
  classRead         := 0x01
  subStop           := 0x03
  subOpen           := 0x01
  subClose          := 0x02
  subSetPosition    := 0x04
  kindGetPosition   := 0x02
  kindGetStatus     := 0x05
  statusValueOffset := 5
  addr0             := 0x01
  addr1             := 0x02
  rxbufCap          := none
  opInit            := .idle
  posInit           := 1 / 2

/-- FREE VALUE (DESIGN CHOICE, log entry 2): the values an installer gives the parameters; nothing about them can be
proved. -/
opaque Config.installed : Config

/-- The configuration of the machine at `State.reset`: the installed one wherever it meets R7. Where it does not, the
installation is no block of the spec, and `REFCFG` stands in (log entry 2). -/
def Config.chip : Config :=
  if Config.installed.valid then Config.installed else Config.ref

/-- FREE VALUE (log entry 5): how the `n`-th choice among events available together falls (20_memory R63). -/
opaque Config.freeChoice : Nat → Nat

/-- `CAP`, the constant capability set (10_state R32, D20). -/
def Config.cap : List Capability := [.position]

/-- `CRC_POLY` (R8). -/
def Config.crcPoly : Word16 := 0xA001

/-- `CRC_INIT` (R8). -/
def Config.crcInit : Word16 := 0xFFFF

/-- `POLL_ARG`, the second payload byte of every poll (R8). -/
def Config.pollArg : Byte := 0x01

/-- `POS_UNKNOWN`, the sentinel value byte (R8). -/
def Config.posUnknown : Byte := 0xFF

/-- `POS_MID`, the position the sentinel maps to (R8). -/
def Config.posMid : Rat := 1 / 2

/-- `MIN_FRAME_RX`, the least length of a frame the assembler can complete (R8, 42_assembler R140). -/
def Config.minFrameRx : Nat := 7

end Sys2Proof
end

