-- ==== Sys2Proof/Machine/Crc.lean ====
section
/-! DEFINITION. The CRC unit (40_crc): pure functions, no state, no event (R110). -/

namespace Sys2Proof.Machine

/-- `lo8(c) = c[7:0]` (00_scope R10). -/
def lo8 (c : Word16) : Byte := c.extractLsb' 0 8

/-- `hi8(c) = c[15:8]` (00_scope R10). -/
def hi8 (c : Word16) : Byte := c.extractLsb' 8 8

/-- One of the eight iterations of `CRC.STEP` (R101): shift right, and xor the polynomial when the bit shifted out
was 1. -/
def crcBit (c : Word16) : Word16 :=
  if c.getLsbD 0 then (c >>> 1) ^^^ Config.crcPoly else c >>> 1

/-- `n` iterations of the loop of R101. -/
def crcBits : Nat → Word16 → Word16
  | 0,     c => c
  | n + 1, c => crcBits n (crcBit c)

/-- `CRC.STEP c, b` (R101): the byte enters the low half, then eight iterations. The loop's body is the spec's own
(D5, G2): log entry 11. -/
def crcStep (c : Word16) (b : Byte) : Word16 :=
  crcBits 8 (c ^^^ b.setWidth 16)

/-- The running value after the bytes of `s`, from the value `c` (R102, R107). -/
def crcFrom (c : Word16) (s : Bytes) : Word16 :=
  s.foldl crcStep c

/-- `CHECKSUM s` (R102): index 0 first, no final xor. -/
def checksum (s : Bytes) : Word16 :=
  crcFrom Config.crcInit s

/-- `CRCBYTES s`: the checksum field for the bytes `s`, low byte first (R103, 30_encoding R73). -/
def crcBytes (s : Bytes) : Bytes :=
  [lo8 (checksum s), hi8 (checksum s)]

/-- `VALIDATE s` (R104): the last two bytes are the checksum of those before them; false on fewer than two bytes
(R105). -/
def validate (s : Bytes) : Bool :=
  decide (2 ≤ s.length) && decide (s.drop (s.length - 2) = crcBytes (s.take (s.length - 2)))

end Sys2Proof.Machine
end

