-- ==== Sys2Proof/Machine/Codec.lean ====
section
/-! DEFINITION. `ENCODE`, the pure function of the frame serializer (41_serializer R120), and the payloads of the
frames the block sends (43_command_encoder R150) and receives (30_encoding R76). -/

namespace Sys2Proof.Machine

/-- What stands before the checksum: start marker, address, class, payload (R120). -/
def frameBody (c : Config) (a0 a1 k : Byte) (m : Bytes) : Bytes :=
  [c.startMarker, a0, a1, k] ++ m

/-- `ENCODE a, k, m` with `a = (a0, a1)` (R120). It checks nothing (R125). -/
def encodeFrame (c : Config) (a0 a1 k : Byte) (m : Bytes) : Bytes :=
  frameBody c a0 a1 k m ++ crcBytes (frameBody c a0 a1 k m)

/-- `ENCODE` for the configured address `ADDR`: the frames this block sends and accepts. -/
def ownFrame (c : Config) (k : Byte) (m : Bytes) : Bytes :=
  encodeFrame c c.addr0 c.addr1 k m

/-- The payload `[SUB_STOP]` (43_command_encoder R150). -/
def payloadStop (c : Config) : Bytes := [c.subStop]

/-- The payload `[SUB_OPEN]` (43_command_encoder R150). -/
def payloadOpen (c : Config) : Bytes := [c.subOpen]

/-- The payload `[SUB_CLOSE]` (43_command_encoder R150). -/
def payloadClose (c : Config) : Bytes := [c.subClose]

/-- The payload `[SUB_SET_POSITION, t]` (43_command_encoder R150). -/
def payloadSetpos (c : Config) (t : Byte) : Bytes := [c.subSetPosition, t]

/-- The payload of a poll for a request kind (43_command_encoder R158, R159). -/
def payloadPoll (c : Config) : ReqKind → Bytes
  | .getPosition => [c.kindGetPosition, Config.pollArg]
  | .getStatus   => [c.kindGetStatus, Config.pollArg]

/-- The sub-command a byte 4 of class `CONTROL` stands for; none for every other value (30_encoding R71, R88). -/
def subCommandOf (c : Config) (x : Byte) : Option SubCommand :=
  if x = c.subStop then some .stop
  else if x = c.subOpen then some .open
  else if x = c.subClose then some .close
  else if x = c.subSetPosition then some .setPosition
  else none

end Sys2Proof.Machine
end

