-- ==== Sys2Proof/Syntax.lean ====
section
/-! DEFINITION. The instructions of the model: one constructor per row of spec/opcode_table.json. -/

namespace Sys2Proof

/-- The rows of the operation and frame table (30_encoding R80, R82, R75, R76). A row of the received frames carries
the frame bytes that its class and sub-command do not fix: the header is the configured one and the last two bytes are
the checksum of the others (R70). -/
inductive Instr where
  /-- `RESET`, the reset line (70_reset_and_hazards R220). -/
  | reset
  /-- `RX.BYTE b`, the receive port (42_assembler R130). -/
  | rxByte (b : Byte)
  /-- `op = 000`, no operation (R82). -/
  | nop
  /-- `ACT.STOP`, `op = 001` (43_command_encoder R151). -/
  | actStop
  /-- `ACT.SETPOS p`, `op = 010`, `p` on the operand port (43_command_encoder R152). -/
  | actSetpos (p : Rat)
  /-- `POLL`, `op = 011` (43_command_encoder R158). -/
  | poll
  /-- `POLL.POS`, `op = 100` (43_command_encoder R159). -/
  | pollPos
  /-- `op = 101`, reserved (R82). -/
  | reserved101
  /-- `op = 110`, reserved (R82). -/
  | reserved110
  /-- `op = 111`, reserved (R82). -/
  | reserved111
  /-- `CRC.STEP c, b` (40_crc R101). -/
  | crcStep (c : Word16) (b : Byte)
  /-- `CHECKSUM s` (40_crc R102). -/
  | checksum (s : Bytes)
  /-- `VALIDATE s` (40_crc R104). -/
  | validate (s : Bytes)
  /-- `ENCODE a, k, m` with `a = (a0, a1)` (41_serializer R120). -/
  | encode (a0 a1 k : Byte) (m : Bytes)
  /-- `TX.FRAME k, m` (41_serializer R122). -/
  | txFrame (k : Byte) (m : Bytes)
  /-- `DISPATCH f` (44_interpreter R170). -/
  | dispatch (f : Bytes)
  /-- `C.STOP` (R75). -/
  | cStop
  /-- `C.OPEN` (R75). -/
  | cOpen
  /-- `C.CLOSE` (R75). -/
  | cClose
  /-- `C.SETPOS t` (R75). -/
  | cSetpos (t : Byte)
  /-- `Q.POS` (R75). -/
  | qPos
  /-- `Q.STAT` (R75). -/
  | qStat
  /-- `R.STOP`: class `CONTROL`, sub-command stop, then any payload bytes `rest` (44_interpreter R172). -/
  | rStop (rest : Bytes)
  /-- `R.OPEN` (44_interpreter R173). -/
  | rOpen (rest : Bytes)
  /-- `R.CLOSE` (44_interpreter R174). -/
  | rClose (rest : Bytes)
  /-- `R.SETPOS`: the target is frame byte 5, the first byte of `rest`, or the checksum's low byte when `rest` is
  empty (44_interpreter R171, R175). -/
  | rSetpos (rest : Bytes)
  /-- `R.BAD`: byte 4 is `x`, no sub-command (44_interpreter R176). -/
  | rBad (x : Byte) (rest : Bytes)
  /-- `S.POS`: class `READ`, payload `m`, read while `KIND = GET_POSITION` (44_interpreter R178). -/
  | sPos (m : Bytes)
  /-- `S.STAT`: class `READ`, payload `m`, read while `KIND = GET_STATUS`, value 0 to 2 (44_interpreter R179). -/
  | sStat (m : Bytes)
  /-- `S.BAD`: class `READ`, payload `m`, read while `KIND = GET_STATUS`, value 3 to 255 (44_interpreter R180). -/
  | sBad (m : Bytes)
  deriving DecidableEq, Repr, Inhabited

end Sys2Proof
end

