-- ==== Sys2Proof/WellFormed.lean ====
section
/-! DEFINITION. Which terms of `Instr` are rows of the table for a configuration: the ranges of the operands
(30_encoding R71, R74, R76). -/

namespace Sys2Proof

open Sys2Proof.Machine

/-- `p` is a position, 0 to 1 (43_command_encoder R152, R156). -/
def positionInRange (p : Rat) : Bool :=
  decide (0 ≤ p) && decide (p ≤ 1)

/-- `x` is one of the four sub-commands (44_interpreter R176). -/
def isSubCommand (c : Config) (x : Byte) : Bool :=
  (subCommandOf c x).isSome

/-- The value byte of the status frame with payload `m` (44_interpreter R177): none where the frame has no byte at
`STATUS_VALUE_OFFSET`. -/
def statusValue? (c : Config) (m : Bytes) : Option Byte :=
  (ownFrame c c.classRead m)[c.statusValueOffset.toNat]?

/-- A received frame has at least one payload byte (42_assembler R140), and its value byte exists and satisfies
`ok` (30_encoding R76). -/
def statusWf (c : Config) (m : Bytes) (ok : Byte → Bool) : Bool :=
  decide (1 ≤ m.length) && (statusValue? c m).any ok

/-- `f` is a completed frame of this block: the operand `DISPATCH` is given (44_interpreter R170). -/
def completedFrame (c : Config) (f : Bytes) : Bool :=
  decide (Config.minFrameRx ≤ f.length)
  && decide (f[0]? = some c.startMarker)
  && decide (f[1]? = some c.addr0)
  && decide (f[2]? = some c.addr1)
  && (decide (f[3]? = some c.classControl) || decide (f[3]? = some c.classRead))
  && Machine.validate f

/-- The well-formed instructions for a configuration. -/
def Instr.wf (c : Config) : Instr → Bool
  | .reset => true
  | .rxByte _ => true
  | .nop => true
  | .actStop => true
  | .actSetpos p => positionInRange p
  | .poll => true
  | .pollPos => true
  | .reserved101 => true
  | .reserved110 => true
  | .reserved111 => true
  | .crcStep _ _ => true
  | .checksum _ => true
  | .validate _ => true
  | .encode _ _ _ _ => true
  | .txFrame _ _ => true
  | .dispatch f => completedFrame c f
  | .cStop => true
  | .cOpen => true
  | .cClose => true
  | .cSetpos t => decide (t.toNat ≤ 100)
  | .qPos => true
  | .qStat => true
  | .rStop _ => true
  | .rOpen _ => true
  | .rClose _ => true
  | .rSetpos _ => true
  | .rBad x _ => !isSubCommand c x
  | .sPos m => statusWf c m (fun v => decide (v.toNat ≤ 100) || decide (v = Config.posUnknown))
  | .sStat m => statusWf c m (fun v => decide (v.toNat ≤ 2))
  | .sBad m => statusWf c m (fun v => decide (3 ≤ v.toNat))

end Sys2Proof
end

