-- ==== Sys2Proof/Decode.lean ====
section
/-! DEFINITION. The decoders and the encoder: the input ports (30_encoding R80, R82) and the wire frames
(30_encoding R70, R75, R76). The functions and sub-operations have no encoding (R80). -/

namespace Sys2Proof

open Sys2Proof.Machine

/-- One word of the command port: the select `op[2:0]` and the operand `p` beside it (R82). The spec gives `p` no
width, so the port carries the rational itself (log entry 13). -/
structure CmdWord where
  op : BitVec 3
  p  : Rat
  deriving DecidableEq, Repr, Inhabited

/-- One input event as the ports carry it (R82): the reset line, the receive port with `rx_data`, the command port. -/
inductive PortWord where
  | reset
  | rx (b : Byte)
  | cmd (w : CmdWord)
  deriving DecidableEq, Repr, Inhabited

/-- Why bytes are no frame of the table: the checks of the header, in the order they are made (60_exceptions R197),
then the checksum, then the kind. -/
inductive DecodeError where
  /-- Fewer than 7 bytes (30_encoding R72). -/
  | frameTooShort
  /-- Byte 0 is not `START_MARKER`. -/
  | badStart
  /-- Byte 1 is not `ADDR0`. -/
  | badAddress0
  /-- Byte 2 is not `ADDR1`. -/
  | badAddress1
  /-- Byte 3 is neither class (R87). -/
  | badClass
  /-- The last two bytes are not the checksum of the others. -/
  | badChecksum
  /-- A valid frame that the block never sends (R75: its six frames are all it emits). -/
  | neverSent
  deriving DecidableEq, Repr, Inhabited

/-- The decoder of the command port (R82): all eight codes have a row, the operand is ignored but by `ACT.SETPOS`. -/
def decodeCmd (w : CmdWord) : Instr :=
  match w.op with
  | 0 => .nop
  | 1 => .actStop
  | 2 => .actSetpos w.p
  | 3 => .poll
  | 4 => .pollPos
  | 5 => .reserved101
  | 6 => .reserved110
  | 7 => .reserved111

/-- The decoder of the ports (R82). -/
def decodePort : PortWord → Instr
  | .reset => .reset
  | .rx b  => .rxByte b
  | .cmd w => decodeCmd w

/-- The class byte and the payload of a frame of this block, or the first check it fails (R70, R71). -/
def decodeHeader (c : Config) (f : Bytes) : Except DecodeError (Byte × Bytes) :=
  if f.length < Config.minFrameRx then .error .frameTooShort
  else if f[0]? ≠ some c.startMarker then .error .badStart
  else if f[1]? ≠ some c.addr0 then .error .badAddress0
  else if f[2]? ≠ some c.addr1 then .error .badAddress1
  else if f[3]? ≠ some c.classControl ∧ f[3]? ≠ some c.classRead then .error .badClass
  else if Machine.validate f then
    .ok ((f[3]?).getD 0, (f.drop 4).take (f.length - 6))
  else .error .badChecksum

/-- Which frame of R75 has class `k` and payload `m`. -/
def decodeSentPayload (c : Config) (k : Byte) (m : Bytes) : Except DecodeError Instr :=
  if k = c.classControl then
    match m with
    | [x] =>
      match subCommandOf c x with
      | some .stop        => .ok .cStop
      | some .open        => .ok .cOpen
      | some .close       => .ok .cClose
      | some .setPosition => .error .neverSent
      | none              => .error .neverSent
    | [x, t] =>
      if subCommandOf c x = some .setPosition ∧ t.toNat ≤ 100 then .ok (.cSetpos t) else .error .neverSent
    | _ => .error .neverSent
  else if m = payloadPoll c .getPosition then .ok .qPos
  else if m = payloadPoll c .getStatus then .ok .qStat
  else .error .neverSent

/-- The decoder of the frames the block sends (R75). -/
def decodeSent (c : Config) (f : Bytes) : Except DecodeError Instr :=
  match decodeHeader c f with
  | .error e    => .error e
  | .ok (k, m) => decodeSentPayload c k m

/-- Which response of R76 has the payload with first byte `x` and further bytes `rest`. -/
def decodeResponse (c : Config) (x : Byte) (rest : Bytes) : Instr :=
  match subCommandOf c x with
  | some .stop        => .rStop rest
  | some .open        => .rOpen rest
  | some .close       => .rClose rest
  | some .setPosition => .rSetpos rest
  | none              => .rBad x rest

/-- Which status frame of R76 the payload `m` is: the register `KIND` chooses, then the value byte. DESIGN CHOICE (log
entry 17): R76 names no row for a frame with no byte at `STATUS_VALUE_OFFSET` under `KIND = GET_STATUS`; it is called
`S.STAT` here, is ill-formed, and is refused when run (R177). -/
def decodeStatus (c : Config) (kind : ReqKind) (m : Bytes) : Instr :=
  match kind with
  | .getPosition => .sPos m
  | .getStatus   => if (statusValue? c m).any (fun v => decide (3 ≤ v.toNat)) then .sBad m else .sStat m

/-- Which frame of R76 has class `k` and payload `m`, with `KIND` holding `kind`. -/
def decodeReceivedPayload (c : Config) (kind : ReqKind) (k : Byte) (m : Bytes) : Except DecodeError Instr :=
  if k = c.classControl then
    match m with
    | []        => .error .frameTooShort
    | x :: rest => .ok (decodeResponse c x rest)
  else .ok (decodeStatus c kind m)

/-- The decoder of the frames the block receives (R76), with `KIND` holding `kind`. -/
def decodeReceived (c : Config) (kind : ReqKind) (f : Bytes) : Except DecodeError Instr :=
  match decodeHeader c f with
  | .error e    => .error e
  | .ok (k, m) => decodeReceivedPayload c kind k m

/-- What stands for an instruction outside the block: an event at a port, a frame it sends, a frame it receives. -/
inductive Encoding where
  | port (w : PortWord)
  | sent (f : Bytes)
  | received (f : Bytes)
  deriving DecidableEq, Repr

/-- The decoder, total on every encoding; a received frame is read with `KIND` holding `kind`. -/
def decode (c : Config) (kind : ReqKind) : Encoding → Except DecodeError Instr
  | .port w     => .ok (decodePort w)
  | .sent f     => decodeSent c f
  | .received f => decodeReceived c kind f

/-- A command port word whose operand port is idle. -/
def cmdOp (op : BitVec 3) : Encoding := .port (.cmd { op := op, p := 0 })

/-- The encoder, from R82 and R75, R76; none for the rows that have no encoding (R80). -/
def encode (c : Config) : Instr → Option Encoding
  | .reset => some (.port .reset)
  | .rxByte b => some (.port (.rx b))
  | .nop => some (cmdOp 0)
  | .actStop => some (cmdOp 1)
  | .actSetpos p => some (.port (.cmd { op := 2, p := p }))
  | .poll => some (cmdOp 3)
  | .pollPos => some (cmdOp 4)
  | .reserved101 => some (cmdOp 5)
  | .reserved110 => some (cmdOp 6)
  | .reserved111 => some (cmdOp 7)
  | .crcStep _ _ => none
  | .checksum _ => none
  | .validate _ => none
  | .encode _ _ _ _ => none
  | .txFrame _ _ => none
  | .dispatch _ => none
  | .cStop => some (.sent (ownFrame c c.classControl (payloadStop c)))
  | .cOpen => some (.sent (ownFrame c c.classControl (payloadOpen c)))
  | .cClose => some (.sent (ownFrame c c.classControl (payloadClose c)))
  | .cSetpos t => some (.sent (ownFrame c c.classControl (payloadSetpos c t)))
  | .qPos => some (.sent (ownFrame c c.classRead (payloadPoll c .getPosition)))
  | .qStat => some (.sent (ownFrame c c.classRead (payloadPoll c .getStatus)))
  | .rStop rest => some (.received (ownFrame c c.classControl (c.subStop :: rest)))
  | .rOpen rest => some (.received (ownFrame c c.classControl (c.subOpen :: rest)))
  | .rClose rest => some (.received (ownFrame c c.classControl (c.subClose :: rest)))
  | .rSetpos rest => some (.received (ownFrame c c.classControl (c.subSetPosition :: rest)))
  | .rBad x rest => some (.received (ownFrame c c.classControl (x :: rest)))
  | .sPos m => some (.received (ownFrame c c.classRead m))
  | .sStat m => some (.received (ownFrame c c.classRead m))
  | .sBad m => some (.received (ownFrame c c.classRead m))

/-- Whether a status row is read while `KIND` holds `kind` (R76); every other row is. -/
def readUnder (kind : ReqKind) : Instr → Bool
  | .sPos _  => decide (kind = .getPosition)
  | .sStat _ => decide (kind = .getStatus)
  | .sBad _  => decide (kind = .getStatus)
  | _        => true

/-- The command port word of a table word: `op[2:0]` is its low three bits, the operand port is zero. -/
def CmdWord.ofBits (w : Nat) : CmdWord := { op := BitVec.ofNat 3 w, p := 0 }

/-- The instruction the command port's decoder reads from a table word of one byte (log entry 13). No other row of
the table has bits. -/
def decodeTableWord (nbits w : Nat) : Option Instr :=
  if 0 < nbits ∧ nbits ≤ 8 then some (decodeCmd (CmdWord.ofBits w)) else none

end Sys2Proof
end

