-- ==== Sys2Proof/Machine/State.lean ====
section
/-! DEFINITION. The state of the block (10_state R20), the memory (20_memory R50), the output events (30_encoding R81)
and the reasons a step can stop. -/

namespace Sys2Proof.Machine

/-- The receive buffer as the machine's one address space (20_memory R50): a cell per stored byte, in rising address
order. An address that is not listed holds no byte (log entry 12). -/
abbrev Memory := List Host.Cell

/-- The canonical form: the listed addresses are 0, 1, ..., `AT` - 1 in that order (R50, R51). -/
def Memory.wf (m : Memory) : Bool :=
  decide (m.map Prod.fst = List.range m.length)

/-- The output events of the block (30_encoding R81). -/
inductive OutEvent where
  | tx (frame : Bytes)
  | publish (op : OpState) (pos : Rat)
  | diag (kind : DiagKind)
  deriving DecidableEq, Repr

/-- The value a function row returns to its caller (log entry 6). -/
inductive FnValue where
  | word (c : Word16)
  | truth (b : Bool)
  | frame (f : Bytes)
  deriving DecidableEq, Repr

/-- The state: configuration, the registers of R20, the output trace of R31, and the model's own fields. -/
structure State where
  /-- The configuration, which no step writes (R26; log entry 2). -/
  cfg      : Config
  /-- `RXBUF` (R22). `AT` is its length (R24). -/
  rxbuf    : Memory
  /-- `KIND` (R27). -/
  kind     : ReqKind
  /-- `OP` (R28). -/
  op       : OpState
  /-- `POS` (R29). -/
  pos      : Rat
  /-- `READY` (R30). -/
  ready    : Bool
  /-- The output trace, oldest event first (R31). -/
  trace    : List OutEvent
  /-- The MODEL's own: what the last function row returned (log entry 6). -/
  ret      : Option FnValue
  /-- The MODEL's own: a reset is requested on the reset line (log entry 4). -/
  resetReq : Bool
  /-- The MODEL's own: received bytes the transport offers, next one first (20_memory R62; log entry 4). -/
  rxIn     : List Byte
  /-- The MODEL's own: command words the host offers, next one first (log entry 4). -/
  cmdIn    : List CmdWord
  /-- The MODEL's own: how many choices among events available together have been made (log entry 5). -/
  turn     : Nat
  deriving DecidableEq, Repr

/-- Why a step can stop with a fault. The block has no fault (60_exceptions R190), and no step of it ends in one. -/
inductive Fault where
  /-- Raised by the rows `DISPATCH f`, `R.*` on an operand too short to be a completed frame: frame byte `i` does not
  exist (44_interpreter R170, R171). SAFE: the machine stops where no frame of the spec leads. -/
  | frameByteAbsent (i : Nat)
  deriving DecidableEq, Repr

/-- Why the model has no meaning for a step. -/
inductive Refusal where
  /-- Raised by an arm of `exec` whose row has no meaning yet. SAFE. -/
  | notModelled (mnemonic : String)
  /-- Raised by `ACT.SETPOS p` with `p < 0` or `p > 1`: "The model refuses such an event" (43_command_encoder R156, U1).
  SAFE: nothing is claimed of the block there. -/
  | positionOutOfRange
  /-- Raised by a status frame read as a position with value byte 101 to 254: "the model refuses the step"
  (44_interpreter R178, U3). SAFE: nothing is claimed of the block there. -/
  | positionValueUndefined (v : Byte)
  /-- Raised by a status frame with no byte at `STATUS_VALUE_OFFSET`: "the model refuses that step" (44_interpreter
  R177, U5). SAFE: nothing is claimed of the block there. -/
  | statusByteAbsent
  deriving DecidableEq, Repr

/-- What every operation of the block answers. -/
abbrev Outcome := Host.Outcome State Fault Refusal

/-- The machine of configuration `c` right after reset, nothing offered at its ports (10_state R35; log entries 3,
4). -/
def State.resetOf (c : Config) : State where
  cfg      := c
  rxbuf    := []
  kind     := .getPosition
  op       := c.opInit
  pos      := c.posInit
  ready    := true
  trace    := []
  ret      := none
  resetReq := false
  rxIn     := []
  cmdIn    := []
  turn     := 0

/-- The machine right after reset, of the installed configuration (10_state R35; log entry 2). -/
def State.reset : State := State.resetOf Config.chip

end Sys2Proof.Machine
end

