-- ==== Sys2Proof/Machine/Ops.lean ====
section
/-! DEFINITION. The named operations over memory and registers (00_scope R12, 20_memory R51), the output trace
(00_scope R13), and raising a condition, the block's only form of exception (60_exceptions R190, R199). -/

namespace Sys2Proof.Machine

/-- `MemRead(i, 1)` (R12): the byte at address `i`, none where the memory holds none. -/
def memRead (m : Memory) (i : Nat) : Option Byte :=
  (m.find? (fun cell => cell.1 == i)).map Prod.snd

/-- `MemWrite(AT, 1, b)` (R12, R51): the only write, an append at the first free address. -/
def memAppend (m : Memory) (b : Byte) : Memory :=
  m ++ [(m.length, b)]

/-- The whole buffer as a byte sequence, index 0 first: what `VALIDATE` and `DISPATCH` are given (R51). -/
def memBytes (m : Memory) : Bytes :=
  m.map Prod.snd

/-- The memory that holds the bytes `f` from address 0 (R50). -/
def memOfBytes (f : Bytes) : Memory :=
  f.foldl memAppend []

/-- `AT = len(RXBUF)` (10_state R24). -/
def State.atCount (s : State) : Nat := s.rxbuf.length

/-- The bytes of `RXBUF`. -/
def State.rxBytes (s : State) : Bytes := memBytes s.rxbuf

/-- `RXBUF <- m`; `AT` follows (R24). -/
def State.setRxbuf (s : State) (m : Memory) : State := { s with rxbuf := m }

/-- `KIND <- k`. -/
def State.setKind (s : State) (k : ReqKind) : State := { s with kind := k }

/-- `OP <- o`. -/
def State.setOp (s : State) (o : OpState) : State := { s with op := o }

/-- `POS <- p`. -/
def State.setPos (s : State) (p : Rat) : State := { s with pos := p }

/-- `READY <- r`. -/
def State.setReady (s : State) (r : Bool) : State := { s with ready := r }

/-- `emit E` (R13): the event goes to the end of the output trace. -/
def State.emit (s : State) (e : OutEvent) : State := { s with trace := s.trace ++ [e] }

/-- A function row returns `v` to its caller (log entry 6). -/
def State.setRet (s : State) (v : FnValue) : State := { s with ret := some v }

/-- Append the byte `b` at `AT` (R51 (1)). -/
def State.append (s : State) (b : Byte) : State := s.setRxbuf (memAppend s.rxbuf b)

/-- Clear the buffer (R51 (2)). -/
def State.clear (s : State) : State := s.setRxbuf []

/-- `emit PUBLISH(OP, POS)`: the snapshot after the writes made so far (44_interpreter R184). -/
def State.publish (s : State) : State := s.emit (.publish s.op s.pos)

/-- `raise X` (00_scope R13, 60_exceptions R193, R199): emit `DIAG(X)` and change nothing else. Nothing is saved, no
control is transferred, and there is no return (R200). -/
def State.raise (s : State) (k : DiagKind) : State := s.emit (.diag k)

end Sys2Proof.Machine
end

