-- ==== Sys2Proof/Machine/Flags.lean ====
section
/-! DEFINITION. `READY`, the block's only flag (10_state R30): who clears it and who sets it. -/

namespace Sys2Proof.Machine

/-- Cleared when a frame is sent (41_serializer R122, D10); the block never reads it (R123). -/
def State.linkBusy (s : State) : State := s.setReady false

/-- Set by every well-formed frame and by nothing else but reset (44_interpreter R181). -/
def State.linkReady (s : State) : State := s.setReady true

end Sys2Proof.Machine
end

