-- ==== Sys2Proof/Machine/Operands.lean ====
section
/-! DEFINITION. How operand bytes and positions are read and computed: the target byte (30_encoding R74), the value
byte (44_interpreter R177 to R179), rounding (00_scope R14). -/

namespace Sys2Proof.Machine

/-- `round(x)` for `x ≥ 0` (R14): the nearest integer, halves up, that is the whole part of `x + 1/2`. -/
def roundHalfUp (x : Rat) : Nat :=
  (2 * x.num.toNat + x.den) / (2 * x.den)

/-- The target byte `round(p * 100)` of a move to `p` (43_command_encoder R155). -/
def targetByte (p : Rat) : Byte :=
  BitVec.ofNat 8 (roundHalfUp (p * 100))

/-- `value / 100` for a percentage byte (44_interpreter R178). -/
def percent (v : Byte) : Rat :=
  mkRat v.toNat 100

/-- The position a value byte stands for (R178): the sentinel is 1/2, 0 to 100 is a percentage, the rest has no
defined result (U3). -/
def positionOfValue (v : Byte) : Option Rat :=
  if v = Config.posUnknown then some Config.posMid
  else if v.toNat ≤ 100 then some (percent v)
  else none

/-- The operation state a status code stands for (44_interpreter R179); none for every other code (R180). -/
def opOfCode (v : Byte) : Option OpState :=
  if v = 0 then some .idle
  else if v = 1 then some .opening
  else if v = 2 then some .closing
  else none

/-- The direction of `R.SETPOS` (44_interpreter R175): `Opening` if the target byte exceeds `POS * 100`, else
`Closing`. -/
def direction (t : Byte) (pos : Rat) : OpState :=
  if (t.toNat : Rat) > pos * 100 then .opening else .closing

end Sys2Proof.Machine
end

