-- ==== Sys2Proof/Machine/Interpreter.lean ====
section
/-! DEFINITION. The response/status interpreter (44_interpreter): `DISPATCH` and the rule of each received frame. -/

namespace Sys2Proof.Machine

/-- What every well-formed response does (R172 to R175): `OP` is written, `READY` set, the snapshot published. -/
def respond (o : OpState) (s : State) : State :=
  ((s.setOp o).linkReady).publish

/-- `R.SETPOS` (R175): the direction is judged against `POS` as it is now; the target is frame byte 5 (R171). -/
def respondMove (f : Bytes) (s : State) : Outcome :=
  match f[5]? with
  | some t => .next (respond (direction t s.pos) s)
  | none   => .fault (.frameByteAbsent 5)

/-- `POS` becomes `new` and is published, only if it changed (R178). -/
def updatePosition (new : Rat) (s : State) : State :=
  if new ≠ s.pos then (s.setPos new).publish else s

/-- `S.POS` with value byte `v` (R178): the position, then `KIND <- GET_STATUS` and `READY <- 1` whether or not it
changed. A value of 101 to 254 has no defined result and is refused (U3; log entry 9). -/
def readPosition (v : Byte) (s : State) : Outcome :=
  match positionOfValue v with
  | some new => .next (((updatePosition new s).setKind .getStatus).linkReady)
  | none     => .refused (.positionValueUndefined v)

/-- `S.STAT` and `S.BAD` with value byte `v` (R179, R180): a status code writes `OP` and is not published; every other
code raises `MalformedStatus` and `READY` is not set. -/
def readStatus (v : Byte) (s : State) : Outcome :=
  match opOfCode v with
  | some o => .next ((s.setOp o).linkReady)
  | none   => .next (s.raise .malformedStatus)

/-- A status frame (R177): the value byte at `STATUS_VALUE_OFFSET`, read as `KIND` says (R183). Where the frame has no
such byte the model refuses (U5; log entry 9). -/
def interpretStatus (f : Bytes) (s : State) : Outcome :=
  match f[s.cfg.statusValueOffset.toNat]? with
  | none   => .refused .statusByteAbsent
  | some v =>
    match s.kind with
    | .getPosition => readPosition v s
    | .getStatus   => readStatus v s

/-- A response frame with sub-command byte `x` (R170, R172 to R176). -/
def interpretResponse (x : Byte) (f : Bytes) (s : State) : Outcome :=
  match subCommandOf s.cfg x with
  | some .stop        => .next (respond .idle s)
  | some .open        => .next (respond .opening s)
  | some .close       => .next (respond .closing s)
  | some .setPosition => respondMove f s
  | none              => .next (s.raise .malformedResponse)

/-- `DISPATCH f` (R170): by class byte, then by byte 4 or by `KIND`. Nothing else of the frame or of what was sent is
looked at (R183). -/
def execDispatch (f : Bytes) (s : State) : Outcome :=
  match f[3]? with
  | none   => .fault (.frameByteAbsent 3)
  | some k =>
    if k = s.cfg.classControl then
      match f[4]? with
      | none   => .fault (.frameByteAbsent 4)
      | some x => interpretResponse x f s
    else interpretStatus f s

/-- `R.STOP` (R172). -/
def execRStop (_rest : Bytes) (s : State) : Outcome :=
  .next (respond .idle s)

/-- `R.OPEN` (R173). -/
def execROpen (_rest : Bytes) (s : State) : Outcome :=
  .next (respond .opening s)

/-- `R.CLOSE` (R174). -/
def execRClose (_rest : Bytes) (s : State) : Outcome :=
  .next (respond .closing s)

/-- `R.SETPOS` (R175): the target is byte 5 of the frame, which is the checksum's low byte when `rest` is empty (U4). -/
def execRSetpos (rest : Bytes) (s : State) : Outcome :=
  respondMove (ownFrame s.cfg s.cfg.classControl (s.cfg.subSetPosition :: rest)) s

/-- `R.BAD` (R176): `DIAG(MalformedResponse)` and nothing else. -/
def execRBad (_x : Byte) (_rest : Bytes) (s : State) : Outcome :=
  .next (s.raise .malformedResponse)

/-- `S.POS` (R178). The three status rows are the same wire frames and `KIND` alone tells them apart (R76, R236), so
under `KIND = GET_STATUS` this frame is read as a status code (log entry 8). -/
def execSPos (m : Bytes) (s : State) : Outcome :=
  interpretStatus (ownFrame s.cfg s.cfg.classRead m) s

/-- `S.STAT` (R179); under `KIND = GET_POSITION` the frame is read as a position (R236; log entry 8). -/
def execSStat (m : Bytes) (s : State) : Outcome :=
  interpretStatus (ownFrame s.cfg s.cfg.classRead m) s

/-- `S.BAD` (R180); under `KIND = GET_POSITION` the frame is read as a position (R236; log entry 8). -/
def execSBad (m : Bytes) (s : State) : Outcome :=
  interpretStatus (ownFrame s.cfg s.cfg.classRead m) s

end Sys2Proof.Machine
end

