-- ==== Sys2Proof/Machine/Assembler.lean ====
section
/-! DEFINITION. The receive assembler (42_assembler): `RX.BYTE`, one rule per value of `AT`. -/

namespace Sys2Proof.Machine

/-- Full reset of the assembler (R136): the buffer is discarded and the byte with it; nothing else changes. -/
def resync (s : State) : State := s.clear

/-- A checked header position (R131 to R134): the byte is stored when it is the expected one, else full reset. At
`AT = 0` the buffer is already empty, so the reset there leaves the state as it was (R131). -/
def headerByte (expected : Bool) (b : Byte) (s : State) : State :=
  if expected then s.append b else resync s

/-- What follows a dispatched frame: the buffer is cleared whatever `DISPATCH` did (R138). -/
def clearAfter : Outcome → Outcome
  | .next s    => .next s.clear
  | .fault r   => .fault r
  | .refused r => .refused r

/-- `AT ≥ 6` (R137): store, then validate the whole buffer; complete (R138) or wait for more (R139). -/
def accumulate (b : Byte) (s : State) : Outcome :=
  if validate (s.append b).rxBytes then
    clearAfter (execDispatch (s.append b).rxBytes (s.append b))
  else .next (s.append b)

/-- `RX.BYTE b` (R130, R141): capacity first (R142), then by `AT`. -/
def execRxByte (b : Byte) (s : State) : Outcome :=
  if s.cfg.rxbufCap = some s.atCount then .next (resync s)
  else
    match s.atCount with
    | 0     => .next (headerByte (b == s.cfg.startMarker) b s)
    | 1     => .next (headerByte (b == s.cfg.addr0) b s)
    | 2     => .next (headerByte (b == s.cfg.addr1) b s)
    | 3     => .next (headerByte (b == s.cfg.classControl || b == s.cfg.classRead) b s)
    | 4     => .next (s.append b)
    | 5     => .next (s.append b)
    | _ + 6 => accumulate b s

end Sys2Proof.Machine
end

