-- ==== Sys2Proof/Machine/Control.lean ====
section
/-! DEFINITION. `RESET` (70_reset_and_hazards R220) and the codes of the command port that do nothing
(30_encoding R82). -/

namespace Sys2Proof.Machine

/-- `RESET` (R220, 10_state R35): every register at its reset value and the trace empty. What the environment offers
at the ports, and the count of its choices, are not the block's to reset (log entry 4). -/
def execReset (s : State) : Outcome :=
  .next { State.resetOf s.cfg with
    resetReq := s.resetReq, rxIn := s.rxIn, cmdIn := s.cmdIn, turn := s.turn }

/-- `op = 000`: no state change, no output (R82). -/
def execNop (s : State) : Outcome := .next s

/-- `op = 101`, reserved: treated as `000` (R82, D26). -/
def execReserved101 (s : State) : Outcome := .next s

/-- `op = 110`, reserved: treated as `000` (R82, D26). -/
def execReserved110 (s : State) : Outcome := .next s

/-- `op = 111`, reserved: treated as `000` (R82, D26). -/
def execReserved111 (s : State) : Outcome := .next s

end Sys2Proof.Machine
end

