-- ==== Sys2Proof/Machine/Serializer.lean ====
section
/-! DEFINITION. `TX.FRAME` (41_serializer R122) and the six frames that leave the block through it
(30_encoding R75). -/

namespace Sys2Proof.Machine

/-- `TX.FRAME k, m` (R122): the frame for `ADDR` is handed over whole and `READY` is cleared. `READY` is not looked at
(R123). -/
def sendFrame (k : Byte) (m : Bytes) (s : State) : State :=
  (s.emit (.tx (ownFrame s.cfg k m))).linkBusy

/-- `TX.FRAME k, m` (R122). -/
def execTxFrame (k : Byte) (m : Bytes) (s : State) : Outcome :=
  .next (sendFrame k m s)

/-- The frame `C.STOP` leaves the block (R75, R122; log entry 7). -/
def execCStop (s : State) : Outcome :=
  .next (sendFrame s.cfg.classControl (payloadStop s.cfg) s)

/-- The frame `C.OPEN` leaves the block (R75, R122; log entry 7). -/
def execCOpen (s : State) : Outcome :=
  .next (sendFrame s.cfg.classControl (payloadOpen s.cfg) s)

/-- The frame `C.CLOSE` leaves the block (R75, R122; log entry 7). -/
def execCClose (s : State) : Outcome :=
  .next (sendFrame s.cfg.classControl (payloadClose s.cfg) s)

/-- The frame `C.SETPOS t` leaves the block (R75, R122; log entry 7). -/
def execCSetpos (t : Byte) (s : State) : Outcome :=
  .next (sendFrame s.cfg.classControl (payloadSetpos s.cfg t) s)

/-- The frame `Q.POS` leaves the block (R75, R122; log entry 7). -/
def execQPos (s : State) : Outcome :=
  .next (sendFrame s.cfg.classRead (payloadPoll s.cfg .getPosition) s)

/-- The frame `Q.STAT` leaves the block (R75, R122; log entry 7). -/
def execQStat (s : State) : Outcome :=
  .next (sendFrame s.cfg.classRead (payloadPoll s.cfg .getStatus) s)

end Sys2Proof.Machine
end

