-- ==== Sys2Proof/Machine/Encoder.lean ====
section
/-! DEFINITION. The command encoder (43_command_encoder): each operation sends one frame or does nothing (R150). -/

namespace Sys2Proof.Machine

/-- `ACT.STOP` (R151): always sends, the guard does not apply (C4, D11). -/
def execActStop (s : State) : Outcome :=
  .next (sendFrame s.cfg.classControl (payloadStop s.cfg) s)

/-- The payload of the control command that moves to `p` (R150): open for 1 (R153), close for 0 (R154), else a move
(R155). -/
def movePayload (c : Config) (p : Rat) : Bytes :=
  if p = 1 then payloadOpen c
  else if p = 0 then payloadClose c
  else payloadSetpos c (targetByte p)

/-- `ACT.SETPOS p` (R152): nothing when `p = POS` (the guard, tested first), else the frame of the move. Outside 0 to 1
the model refuses (R156, U1; log entry 9). -/
def execActSetpos (p : Rat) (s : State) : Outcome :=
  if positionInRange p then
    .next (if p = s.pos then s else sendFrame s.cfg.classControl (movePayload s.cfg p) s)
  else .refused .positionOutOfRange

/-- `POLL` (R158): asks for what `KIND` holds, and leaves `KIND`. -/
def execPoll (s : State) : Outcome :=
  .next (sendFrame s.cfg.classRead (payloadPoll s.cfg s.kind) s)

/-- `POLL.POS` (R159): `KIND` goes back to `GET_POSITION`, which is then asked for. -/
def execPollPos (s : State) : Outcome :=
  .next (sendFrame s.cfg.classRead (payloadPoll s.cfg .getPosition) (s.setKind .getPosition))

end Sys2Proof.Machine
end

