-- ==== Sys2Proof/Machine/Functions.lean ====
section
/-! DEFINITION. The four function rows (40_crc R101, R102, R104, 41_serializer R120). They read and write no register
(R110): what they compute is returned to the caller (log entry 6). -/

namespace Sys2Proof.Machine

/-- `CRC.STEP c, b` (R101). -/
def execCrcStep (c : Word16) (b : Byte) (s : State) : Outcome :=
  .next (s.setRet (.word (crcStep c b)))

/-- `CHECKSUM m` (R102). -/
def execChecksum (m : Bytes) (s : State) : Outcome :=
  .next (s.setRet (.word (checksum m)))

/-- `VALIDATE m` (R104, R105). -/
def execValidate (m : Bytes) (s : State) : Outcome :=
  .next (s.setRet (.truth (validate m)))

/-- `ENCODE a, k, m` (R120). -/
def execEncode (a0 a1 k : Byte) (m : Bytes) (s : State) : Outcome :=
  .next (s.setRet (.frame (encodeFrame s.cfg a0 a1 k m)))

end Sys2Proof.Machine
end

