-- ==== Sys2Proof/Machine/Dispatch.lean ====
section
/-! DEFINITION. exec: one arm per row of the operation and frame table. -/

namespace Sys2Proof.Machine

def exec (i : Instr) (s : State) : Host.Outcome State Fault Refusal :=
  match i with
  | .reset => Sys2Proof.Machine.execReset s
  | .rxByte b => Sys2Proof.Machine.execRxByte b s
  | .nop => Sys2Proof.Machine.execNop s
  | .actStop => Sys2Proof.Machine.execActStop s
  | .actSetpos p => Sys2Proof.Machine.execActSetpos p s
  | .poll => Sys2Proof.Machine.execPoll s
  | .pollPos => Sys2Proof.Machine.execPollPos s
  | .reserved101 => Sys2Proof.Machine.execReserved101 s
  | .reserved110 => Sys2Proof.Machine.execReserved110 s
  | .reserved111 => Sys2Proof.Machine.execReserved111 s
  | .crcStep c b => Sys2Proof.Machine.execCrcStep c b s
  | .checksum m => Sys2Proof.Machine.execChecksum m s
  | .validate m => Sys2Proof.Machine.execValidate m s
  | .encode a0 a1 k m => Sys2Proof.Machine.execEncode a0 a1 k m s
  | .txFrame k m => Sys2Proof.Machine.execTxFrame k m s
  | .dispatch f => Sys2Proof.Machine.execDispatch f s
  | .cStop => Sys2Proof.Machine.execCStop s
  | .cOpen => Sys2Proof.Machine.execCOpen s
  | .cClose => Sys2Proof.Machine.execCClose s
  | .cSetpos t => Sys2Proof.Machine.execCSetpos t s
  | .qPos => Sys2Proof.Machine.execQPos s
  | .qStat => Sys2Proof.Machine.execQStat s
  | .rStop rest => Sys2Proof.Machine.execRStop rest s
  | .rOpen rest => Sys2Proof.Machine.execROpen rest s
  | .rClose rest => Sys2Proof.Machine.execRClose rest s
  | .rSetpos rest => Sys2Proof.Machine.execRSetpos rest s
  | .rBad x rest => Sys2Proof.Machine.execRBad x rest s
  | .sPos m => Sys2Proof.Machine.execSPos m s
  | .sStat m => Sys2Proof.Machine.execSStat m s
  | .sBad m => Sys2Proof.Machine.execSBad m s

end Sys2Proof.Machine
end

