-- ==== Sys2Proof/Machine/Fetch.lean ====
section
/-! DEFINITION. How the next input event reaches the block: at most one per step (30_encoding R82), received bytes in
arrival order (20_memory R62), events available together in any order (20_memory R63, 60_exceptions R198). -/

namespace Sys2Proof.Machine

/-- Where an input event comes from (30_encoding R82). -/
inductive Source where
  | resetLine
  | rxPort
  | cmdPort
  deriving DecidableEq, Repr

/-- The sources that offer an event now. -/
def offers (s : State) : List Source :=
  (if s.resetReq then [.resetLine] else [])
    ++ (if s.rxIn.isEmpty then [] else [.rxPort])
    ++ (if s.cmdIn.isEmpty then [] else [.cmdPort])

/-- The source served next, and the count of choices after it: with one offer there is nothing to choose, with more
the choice is free (log entry 5). -/
def arbitrate (turn : Nat) : List Source → Option Source × Nat
  | []            => (none, turn)
  | [a]           => (some a, turn)
  | a :: b :: rest =>
    ((a :: b :: rest)[Config.freeChoice turn % (a :: b :: rest).length]?, turn + 1)

/-- Take the next word of a source; the word is consumed (20_memory R58). -/
def takeFrom (s : State) : Source → Option (PortWord × State)
  | .resetLine => if s.resetReq then some (.reset, { s with resetReq := false }) else none
  | .rxPort    =>
    match s.rxIn with
    | []        => none
    | b :: rest => some (.rx b, { s with rxIn := rest })
  | .cmdPort   =>
    match s.cmdIn with
    | []        => none
    | w :: rest => some (.cmd w, { s with cmdIn := rest })

/-- Take one event from the ports; none where nothing is offered. -/
def takeEvent (s : State) : Option (PortWord × State) :=
  match arbitrate s.turn (offers s) with
  | (none, _)      => none
  | (some src, n) => takeFrom { s with turn := n } src

/-- Offer the word of a table row at the command port as the only event, before the words already waiting there. -/
def offerTableWord (s : State) (w : Nat) : State :=
  { s with resetReq := false, rxIn := [], cmdIn := CmdWord.ofBits w :: s.cmdIn }

end Sys2Proof.Machine
end

