-- ==== Sys2Proof/Machine/Step.lean ====
section
/-! DEFINITION. One step of the block: one input event, to completion (20_memory R57). -/

namespace Sys2Proof.Machine

/-- One step: an event is taken from the ports, decoded and run. The block is idle between events (60_exceptions R209):
with none offered the state stays. -/
def step (s : State) : Host.Outcome State Fault Refusal :=
  match takeEvent s with
  | none        => .next s
  | some (w, t) => exec (decodePort w) t

/-- `s` with the instruction of a table word offered as the next event (log entry 4): only the command port's rows have
bits, so the width is not looked at. -/
def State.withFetchWord (s : State) (_nbits w : Nat) : State :=
  offerTableWord s w

end Sys2Proof.Machine
end

