-- ==== Sys2Proof/Safety.lean ====
section
/-! DEFINITION. What claims are stated in: sequences of operations, the invariants of the state, and the two families
of instructions that the whole-machine rules speak of. -/

namespace Sys2Proof.Machine

/-- The operations of `is`, one after another, up to the first that stops (20_memory R61). -/
def runOps : List Instr → State → Outcome
  | [],      s => .next s
  | i :: is, s =>
    match exec i s with
    | .next t    => runOps is t
    | .fault r   => .fault r
    | .refused r => .refused r

/-- `RX b0 b1 ...`: one `RX.BYTE` per byte, in order (30_encoding R93, R94). -/
def rxAll (f : Bytes) : List Instr := f.map .rxByte

/-- The buffer's memory is in canonical form (20_memory R50). -/
def MemoryInv (s : State) : Prop := s.rxbuf.wf = true

/-- The header invariant (10_state R25): what the first four stored bytes are, and that no buffer of seven or more
bytes that stays between operations validates. -/
def HeaderInv (s : State) : Prop :=
  (1 ≤ s.atCount → memRead s.rxbuf 0 = some s.cfg.startMarker)
  ∧ (2 ≤ s.atCount → memRead s.rxbuf 1 = some s.cfg.addr0)
  ∧ (3 ≤ s.atCount → memRead s.rxbuf 2 = some s.cfg.addr1)
  ∧ (4 ≤ s.atCount →
      memRead s.rxbuf 3 = some s.cfg.classControl ∨ memRead s.rxbuf 3 = some s.cfg.classRead)
  ∧ (s.atCount < 7 ∨ validate s.rxBytes = false)

/-- The values `POS` can hold (10_state R29): `POS_INIT`, 1/2, and `k/100` for `k` from 0 to 100. -/
def PositionInv (s : State) : Prop :=
  s.pos = s.cfg.posInit ∨ s.pos = 1 / 2 ∨ ∃ k : Nat, k ≤ 100 ∧ s.pos = (k : Rat) / 100

/-- The buffer never holds more bytes than a finite capacity (42_assembler R142). -/
def CapacityInv (s : State) : Prop :=
  ∀ n, s.cfg.rxbufCap = some n → s.atCount ≤ n

/-- There is room for one more byte: no capacity, or fewer bytes than it (42_assembler R130). -/
def Room (s : State) : Prop := s.cfg.rxbufCap ≠ some s.atCount

/-- The byte `b` completes the frame in the buffer of `s`: there is room for it, it is the seventh byte or a later one,
and the buffer with it validates (42_assembler R137, R138). -/
def Completes (s : State) (b : Byte) : Prop :=
  Room s ∧ 6 ≤ s.atCount ∧ validate (s.rxBytes ++ [b]) = true

/-- A frame of `n` bytes fits the capacity (42_assembler R142). -/
def Fits (c : Config) (n : Nat) : Prop :=
  ∀ cap, c.rxbufCap = some cap → n ≤ cap

/-- No proper prefix of `f` with seven or more bytes validates (42_assembler R143, 70_reset_and_hazards R229). -/
def NoEarlyEnd (f : Bytes) : Prop :=
  ∀ n, Config.minFrameRx ≤ n → n < f.length → validate (f.take n) = false

/-- The command operations of the host, `TX.FRAME`, and the six frames that leave by it (43_command_encoder,
41_serializer). -/
def sendsOnly : Instr → Bool
  | .actStop => true
  | .actSetpos _ => true
  | .poll => true
  | .pollPos => true
  | .txFrame _ _ => true
  | .cStop => true
  | .cOpen => true
  | .cClose => true
  | .cSetpos _ => true
  | .qPos => true
  | .qStat => true
  | _ => false

/-- `DISPATCH` and the frames it interprets (44_interpreter). -/
def interprets : Instr → Bool
  | .dispatch _ => true
  | .rStop _ => true
  | .rOpen _ => true
  | .rClose _ => true
  | .rSetpos _ => true
  | .rBad _ _ => true
  | .sPos _ => true
  | .sStat _ => true
  | .sBad _ => true
  | _ => false

/-- What the environment offers and the free choices made are as before: only `step` takes from the ports. -/
def SamePorts (s t : State) : Prop :=
  t.resetReq = s.resetReq ∧ t.rxIn = s.rxIn ∧ t.cmdIn = s.cmdIn ∧ t.turn = s.turn

/-- Every byte of memory reads as before. -/
def SameMemory (s t : State) : Prop :=
  ∀ a, memRead t.rxbuf a = memRead s.rxbuf a

end Sys2Proof.Machine
end

