-- ==== Sys2Proof/Certificates/Slice0/Obligations.lean ====
section
/-! DEFINITION. The statements for the provers. Rule numbers R<n> are those of spec/; V, X, U, D as in files 95, 93,
92. -/

open Sys2Proof Sys2Proof.Machine

/-! ### Encoding -/

/-- R82: the select codes of the command port, and the two ports that use no code. -/
def Obligations.PortCodesDecodeToTheirRows : Prop :=
  (∀ p : Rat,
    decodePort (.cmd { op := 0b000, p := p }) = .nop
    ∧ decodePort (.cmd { op := 0b001, p := p }) = .actStop
    ∧ decodePort (.cmd { op := 0b010, p := p }) = .actSetpos p
    ∧ decodePort (.cmd { op := 0b011, p := p }) = .poll
    ∧ decodePort (.cmd { op := 0b100, p := p }) = .pollPos
    ∧ decodePort (.cmd { op := 0b101, p := p }) = .reserved101
    ∧ decodePort (.cmd { op := 0b110, p := p }) = .reserved110
    ∧ decodePort (.cmd { op := 0b111, p := p }) = .reserved111)
  ∧ (∀ b : Byte, decodePort (.rx b) = .rxByte b)
  ∧ decodePort .reset = .reset

/-- Frames written out byte by byte in 95_test_vectors (V13, V14, V15, V20, V55), under `REFCFG`. -/
def Obligations.WireFramesOfTheVectorsDecode : Prop :=
  decodeSent Config.ref [0x55, 0x01, 0x02, 0x03, 0x03, 0xC8, 0xC1] = .ok .cStop
  ∧ decodeSent Config.ref [0x55, 0x01, 0x02, 0x03, 0x04, 0x25, 0x03, 0x7D] = .ok (.cSetpos 37)
  ∧ decodeSent Config.ref [0x55, 0x01, 0x02, 0x01, 0x02, 0x01, 0xA1, 0x06] = .ok .qPos
  ∧ decodeReceived Config.ref .getPosition [0x55, 0x01, 0x02, 0x03, 0x02, 0x09, 0x01] = .ok (.rClose [])
  ∧ decodeReceived Config.ref .getPosition [0x55, 0x01, 0x02, 0x03, 0x09, 0x48, 0xC6] = .ok (.rBad 9 [])
  ∧ decodeReceived Config.ref .getPosition [0x55, 0x01, 0x02, 0x01, 0x01, 0x32, 0xE1, 0xE3] = .ok (.sPos [1, 0x32])
  ∧ decodeReceived Config.ref .getStatus [0x55, 0x01, 0x02, 0x01, 0x01, 0x03, 0x20, 0x37] = .ok (.sBad [1, 3])

/-- R70, R71, R75, R76, R82: every well-formed instruction that has an encoding is read back from it, with every
operand at every value; a status frame is read back while `KIND` holds the kind its row names. -/
def Obligations.DecodeOfEncodeIsTheInstruction : Prop :=
  ∀ (c : Config) (kind : ReqKind) (i : Instr) (e : Encoding),
    c.valid = true → i.wf c = true → readUnder kind i = true → encode c i = some e →
    decode c kind e = .ok i

/-- R70, R75, R76: a wire frame has one meaning. Bytes that decode to an instruction are that instruction's own
encoding, and every completed frame of the block decodes to some received row. That a status frame with no value byte
decodes to `S.STAT` under `KIND = GET_STATUS` is the model's choice (log entry 17). -/
def Obligations.WireFramesHaveOneMeaning : Prop :=
  (∀ (c : Config) (f : Bytes) (i : Instr), decodeSent c f = .ok i → encode c i = some (.sent f))
  ∧ (∀ (c : Config) (kind : ReqKind) (f : Bytes) (i : Instr),
      decodeReceived c kind f = .ok i → encode c i = some (.received f) ∧ completedFrame c f = true)
  ∧ (∀ (c : Config) (kind : ReqKind) (f : Bytes),
      completedFrame c f = true → ∃ i, decodeReceived c kind f = .ok i)

/-! ### The CRC unit -/

/-- R101, R102: worked examples and corner cases (V1 to V10). -/
def Obligations.CrcWorkedExamples : Prop :=
  crcStep 0xFFFF 0x55 = 0x7F7F
  ∧ crcStep 0x0000 0x00 = 0x0000
  ∧ crcStep 0x0001 0x00 = 0xC0C1
  ∧ crcStep 0x8000 0x00 = 0x0080
  ∧ checksum [] = 0xFFFF
  ∧ checksum [0x00] = 0x40BF
  ∧ checksum [0xFF] = 0x00FF
  ∧ checksum [0x01] = 0x807E
  ∧ checksum [0x31, 0x32, 0x33, 0x34, 0x35, 0x36, 0x37, 0x38, 0x39] = 0x4B37

/-- R101: "for a fixed `b` the function is a bijection on 16-bit values, and for a fixed `c` it is injective in
`b`". -/
def Obligations.CrcStepIsBijectiveInTheValueAndInjectiveInTheByte : Prop :=
  (∀ b : Byte, Function.Bijective (fun c => crcStep c b)) ∧ (∀ c : Word16, Function.Injective (crcStep c))

/-- R107, the incremental law. -/
def Obligations.ChecksumIsIncremental : Prop :=
  (∀ (s : Bytes) (b : Byte), checksum (s ++ [b]) = crcStep (checksum s) b)
  ∧ (∀ s t : Bytes, checksum (s ++ t) = t.foldl crcStep (checksum s))

/-- R106, the residue law. -/
def Obligations.ResidueLaw : Prop :=
  (∀ m : Bytes, checksum (m ++ crcBytes m) = 0)
  ∧ (∀ (m : Bytes) (x y : Byte), checksum (m ++ [x, y]) = 0 ↔ [x, y] = crcBytes m)
  ∧ (∀ s : Bytes, 2 ≤ s.length → (validate s = true ↔ checksum s = 0))

/-- R109: exactly one pair of bytes completes a byte sequence to a valid one, namely `CRCBYTES`. -/
def Obligations.ExactlyOneTailValidates : Prop :=
  ∀ (m : Bytes) (x y : Byte), validate (m ++ [x, y]) = true ↔ x = lo8 (checksum m) ∧ y = hi8 (checksum m)

/-- R109: "The checksum detects every error confined to a single byte of a frame of fixed length". -/
def Obligations.SingleByteErrorIsDetected : Prop :=
  ∀ (before after : Bytes) (x y : Byte), x ≠ y →
    validate (before ++ x :: after) = true → validate (before ++ y :: after) = false

/-- R104: "a sequence of `n ≥ 2` zero bytes is never valid". -/
def Obligations.ZeroRunsNeverValidate : Prop :=
  ∀ n : Nat, 2 ≤ n → validate (List.replicate n 0x00) = false

/-- R105: `VALIDATE` of fewer than two bytes. -/
def Obligations.ValidateOfFewerThanTwoBytesIsFalse : Prop :=
  ∀ s : Bytes, s.length < 2 → validate s = false

/-- R121: length, layout, validity, residue and injectivity of `ENCODE`. -/
def Obligations.EncodeLayoutAndInjectivity : Prop :=
  (∀ (c : Config) (a0 a1 k : Byte) (m : Bytes),
    (encodeFrame c a0 a1 k m).length = 6 + m.length
    ∧ (encodeFrame c a0 a1 k m)[0]? = some c.startMarker
    ∧ (encodeFrame c a0 a1 k m)[1]? = some a0
    ∧ (encodeFrame c a0 a1 k m)[2]? = some a1
    ∧ (encodeFrame c a0 a1 k m)[3]? = some k
    ∧ ((encodeFrame c a0 a1 k m).drop 4).take m.length = m
    ∧ validate (encodeFrame c a0 a1 k m) = true
    ∧ checksum (encodeFrame c a0 a1 k m) = 0)
  ∧ (∀ (c : Config) (a0 a1 k b0 b1 l : Byte) (m n : Bytes),
    encodeFrame c a0 a1 k m = encodeFrame c b0 b1 l n → a0 = b0 ∧ a1 = b1 ∧ k = l ∧ m = n)

/-! ### Functions -/

/-- R101, R102, R104, R120 and R110: each function row returns its function's value and touches no register, no memory
and no port. Where the value is returned to is the model's own (log entry 6). -/
def Obligations.FunctionRowsReturnTheirValueAndTouchNothing : Prop :=
  ∀ s : State,
    (∀ (c : Word16) (b : Byte), exec (.crcStep c b) s = .next { s with ret := some (.word (crcStep c b)) })
    ∧ (∀ m : Bytes, exec (.checksum m) s = .next { s with ret := some (.word (m.foldl crcStep 0xFFFF)) })
    ∧ (∀ m : Bytes, exec (.validate m) s = .next { s with ret := some (.truth (validate m)) })
    ∧ (∀ (a0 a1 k : Byte) (m : Bytes), exec (.encode a0 a1 k m) s =
        .next { s with ret := some (.frame
          ([s.cfg.startMarker, a0, a1, k] ++ m ++ crcBytes ([s.cfg.startMarker, a0, a1, k] ++ m))) })

/-! ### The serializer and the command encoder -/

/-- R122: the frame for `ADDR` is emitted whole, `READY` is cleared, and nothing else changes. -/
def Obligations.TxFrameEmitsAndClearsReady : Prop :=
  ∀ (s : State) (k : Byte) (m : Bytes),
    exec (.txFrame k m) s = .next { s with
      trace := s.trace ++ [.tx ([s.cfg.startMarker, s.cfg.addr0, s.cfg.addr1, k] ++ m
        ++ crcBytes ([s.cfg.startMarker, s.cfg.addr0, s.cfg.addr1, k] ++ m))]
      ready := false }

/-- R75 with R122: each frame of the table of R75 leaves with its class and payload. That a frame row, run as an
instruction, is its `TX.FRAME` is the model's choice (log entry 7). -/
def Obligations.SentFramesCarryTheirPayload : Prop :=
  ∀ s : State,
    let sent := fun (k : Byte) (m : Bytes) => Host.Outcome.next (φ := Fault) (ρ := Refusal) { s with
      trace := s.trace ++ [.tx (encodeFrame s.cfg s.cfg.addr0 s.cfg.addr1 k m)], ready := false }
    exec .cStop s = sent s.cfg.classControl [s.cfg.subStop]
    ∧ exec .cOpen s = sent s.cfg.classControl [s.cfg.subOpen]
    ∧ exec .cClose s = sent s.cfg.classControl [s.cfg.subClose]
    ∧ (∀ t : Byte, exec (.cSetpos t) s = sent s.cfg.classControl [s.cfg.subSetPosition, t])
    ∧ exec .qPos s = sent s.cfg.classRead [s.cfg.kindGetPosition, 0x01]
    ∧ exec .qStat s = sent s.cfg.classRead [s.cfg.kindGetStatus, 0x01]

/-- R151: a stop is always sent. -/
def Obligations.ActStopAlwaysSends : Prop :=
  ∀ s : State, exec .actStop s = .next { s with
    trace := s.trace ++ [.tx (encodeFrame s.cfg s.cfg.addr0 s.cfg.addr1 s.cfg.classControl [s.cfg.subStop])]
    ready := false }

/-- R152: the idempotence guard, exact equality with `POS`; nothing at all changes. -/
def Obligations.ActSetposGuardChangesNothing : Prop :=
  ∀ (s : State) (p : Rat), 0 ≤ p → p ≤ 1 → p = s.pos → exec (.actSetpos p) s = .next s

/-- R153, R154: position 1 opens and position 0 closes, each by a 7-byte frame without a target byte. -/
def Obligations.ActSetposOpensAndCloses : Prop :=
  ∀ s : State,
    (s.pos ≠ 1 → exec (.actSetpos 1) s = .next { s with
      trace := s.trace ++ [.tx (encodeFrame s.cfg s.cfg.addr0 s.cfg.addr1 s.cfg.classControl [s.cfg.subOpen])]
      ready := false })
    ∧ (s.pos ≠ 0 → exec (.actSetpos 0) s = .next { s with
      trace := s.trace ++ [.tx (encodeFrame s.cfg s.cfg.addr0 s.cfg.addr1 s.cfg.classControl [s.cfg.subClose])]
      ready := false })
    ∧ (encodeFrame s.cfg s.cfg.addr0 s.cfg.addr1 s.cfg.classControl [s.cfg.subOpen]).length = 7
    ∧ (encodeFrame s.cfg s.cfg.addr0 s.cfg.addr1 s.cfg.classControl [s.cfg.subClose]).length = 7

/-- R155: a move sends `SET_POSITION`, an 8-byte frame, with the integer nearest to `p * 100`, halves up, which is 0 to
100. -/
def Obligations.ActSetposMovesToTheNearestPercent : Prop :=
  ∀ (s : State) (p : Rat), 0 < p → p < 1 → p ≠ s.pos →
    ∃ t : Nat, t ≤ 100 ∧ (t : Rat) - 1 / 2 ≤ p * 100 ∧ p * 100 < (t : Rat) + 1 / 2
      ∧ (encodeFrame s.cfg s.cfg.addr0 s.cfg.addr1 s.cfg.classControl
          [s.cfg.subSetPosition, BitVec.ofNat 8 t]).length = 8
      ∧ exec (.actSetpos p) s = .next { s with
          trace := s.trace ++ [.tx (encodeFrame s.cfg s.cfg.addr0 s.cfg.addr1 s.cfg.classControl
            [s.cfg.subSetPosition, BitVec.ofNat 8 t])]
          ready := false }

/-- R156: outside 0 to 1 the model refuses the event. -/
def Obligations.ActSetposOutOfRangeIsRefused : Prop :=
  ∀ (s : State) (p : Rat), p < 0 ∨ 1 < p → exec (.actSetpos p) s = .refused .positionOutOfRange

/-- R158: a poll asks for what `KIND` holds, and `KIND` stays. -/
def Obligations.PollAsksForTheCurrentKind : Prop :=
  ∀ s : State,
    (s.kind = .getPosition → exec .poll s = .next { s with
      trace := s.trace ++ [.tx (encodeFrame s.cfg s.cfg.addr0 s.cfg.addr1 s.cfg.classRead
        [s.cfg.kindGetPosition, 0x01])]
      ready := false })
    ∧ (s.kind = .getStatus → exec .poll s = .next { s with
      trace := s.trace ++ [.tx (encodeFrame s.cfg s.cfg.addr0 s.cfg.addr1 s.cfg.classRead
        [s.cfg.kindGetStatus, 0x01])]
      ready := false })

/-- R159: the position-kind poll. -/
def Obligations.PollPosReturnsToPosition : Prop :=
  ∀ s : State, exec .pollPos s = .next { s with
    kind := .getPosition
    trace := s.trace ++ [.tx (encodeFrame s.cfg s.cfg.addr0 s.cfg.addr1 s.cfg.classRead
      [s.cfg.kindGetPosition, 0x01])]
    ready := false }

/-- R161 with R122: the frame of the command operations, of `TX.FRAME` and of the sent frames. `READY` is cleared
exactly when a frame is emitted; `KIND` is written by `POLL.POS` alone. R161 speaks of the command operations; that a
sent frame's row, run as an instruction, is its `TX.FRAME` is the model's reading (log entry 7). -/
def Obligations.SendingOperationsFrame : Prop :=
  ∀ (i : Instr) (s t : State), sendsOnly i = true → exec i s = .next t →
    t.cfg = s.cfg ∧ t.op = s.op ∧ t.pos = s.pos ∧ t.ret = s.ret ∧ t.atCount = s.atCount
    ∧ SameMemory s t ∧ SamePorts s t
    ∧ (i ≠ .pollPos → t.kind = s.kind)
    ∧ ((t.trace = s.trace ∧ t.ready = s.ready) ∨ (∃ f, t.trace = s.trace ++ [.tx f]) ∧ t.ready = false)

/-! ### The interpreter -/

/-- R172, R173, R174 for the rows: `OP` is written, `READY` set, the snapshot after the write published. -/
def Obligations.StopOpenCloseResponsesSetOp : Prop :=
  ∀ (s : State) (rest : Bytes),
    exec (.rStop rest) s = .next { s with
      op := .idle, ready := true, trace := s.trace ++ [.publish .idle s.pos] }
    ∧ exec (.rOpen rest) s = .next { s with
      op := .opening, ready := true, trace := s.trace ++ [.publish .opening s.pos] }
    ∧ exec (.rClose rest) s = .next { s with
      op := .closing, ready := true, trace := s.trace ++ [.publish .closing s.pos] }

/-- R175 with R171 for the row, any length of `rest`: frame byte 5 is the first byte of `rest`, and in a 7-byte frame
the checksum's low byte (U4). -/
def Obligations.SetposResponseJudgesTheDirection : Prop :=
  ∀ (s : State) (rest : Bytes) (t : Byte),
    t = rest.headD (lo8 (checksum
      [s.cfg.startMarker, s.cfg.addr0, s.cfg.addr1, s.cfg.classControl, s.cfg.subSetPosition])) →
    ((t.toNat : Rat) > s.pos * 100 → exec (.rSetpos rest) s = .next { s with
      op := .opening, ready := true, trace := s.trace ++ [.publish .opening s.pos] })
    ∧ ((t.toNat : Rat) ≤ s.pos * 100 → exec (.rSetpos rest) s = .next { s with
      op := .closing, ready := true, trace := s.trace ++ [.publish .closing s.pos] })

/-- R176 for the row: the diagnostic and nothing else; `READY` is not set. -/
def Obligations.MalformedResponseOnlyDiagnoses : Prop :=
  ∀ (s : State) (x : Byte) (rest : Bytes),
    exec (.rBad x rest) s = .next { s with trace := s.trace ++ [.diag .malformedResponse] }

/-- R170, R172 to R176: `DISPATCH` of a frame of class `CONTROL`, by byte 4. -/
def Obligations.DispatchOfResponses : Prop :=
  ∀ (s : State) (f : Bytes), s.cfg.valid = true → f[3]? = some s.cfg.classControl →
    (f[4]? = some s.cfg.subStop → exec (.dispatch f) s = .next { s with
      op := .idle, ready := true, trace := s.trace ++ [.publish .idle s.pos] })
    ∧ (f[4]? = some s.cfg.subOpen → exec (.dispatch f) s = .next { s with
      op := .opening, ready := true, trace := s.trace ++ [.publish .opening s.pos] })
    ∧ (f[4]? = some s.cfg.subClose → exec (.dispatch f) s = .next { s with
      op := .closing, ready := true, trace := s.trace ++ [.publish .closing s.pos] })
    ∧ (∀ t, f[4]? = some s.cfg.subSetPosition → f[5]? = some t → (t.toNat : Rat) > s.pos * 100 →
      exec (.dispatch f) s = .next { s with
        op := .opening, ready := true, trace := s.trace ++ [.publish .opening s.pos] })
    ∧ (∀ t, f[4]? = some s.cfg.subSetPosition → f[5]? = some t → (t.toNat : Rat) ≤ s.pos * 100 →
      exec (.dispatch f) s = .next { s with
        op := .closing, ready := true, trace := s.trace ++ [.publish .closing s.pos] })
    ∧ (∀ x, f[4]? = some x → x ≠ s.cfg.subStop → x ≠ s.cfg.subOpen → x ≠ s.cfg.subClose →
      x ≠ s.cfg.subSetPosition →
      exec (.dispatch f) s = .next { s with trace := s.trace ++ [.diag .malformedResponse] })

/-- R170, R178: `DISPATCH` of a frame of class `READ` while `KIND = GET_POSITION`: the percentage path, the sentinel
path, and publishing only a change. A value of 101 to 254 is refused. -/
def Obligations.DispatchOfPositionStatus : Prop :=
  ∀ (s : State) (f : Bytes) (v : Byte), s.cfg.valid = true → f[3]? = some s.cfg.classRead →
    f[s.cfg.statusValueOffset.toNat]? = some v → s.kind = .getPosition →
    (∀ new : Rat, (v = 0xFF ∧ new = 1 / 2) ∨ (v.toNat ≤ 100 ∧ new = (v.toNat : Rat) / 100) →
      (new ≠ s.pos → exec (.dispatch f) s = .next { s with
        pos := new, kind := .getStatus, ready := true, trace := s.trace ++ [.publish s.op new] })
      ∧ (new = s.pos → exec (.dispatch f) s = .next { s with kind := .getStatus, ready := true }))
    ∧ (100 < v.toNat → v ≠ 0xFF → exec (.dispatch f) s = .refused (.positionValueUndefined v))

/-- R170, R179, R180: `DISPATCH` of a frame of class `READ` while `KIND = GET_STATUS`: a status code writes `OP` and is
not published; any other code is diagnosed and changes nothing. -/
def Obligations.DispatchOfOperationStatus : Prop :=
  ∀ (s : State) (f : Bytes) (v : Byte), s.cfg.valid = true → f[3]? = some s.cfg.classRead →
    f[s.cfg.statusValueOffset.toNat]? = some v → s.kind = .getStatus →
    (v = 0 → exec (.dispatch f) s = .next { s with op := .idle, ready := true })
    ∧ (v = 1 → exec (.dispatch f) s = .next { s with op := .opening, ready := true })
    ∧ (v = 2 → exec (.dispatch f) s = .next { s with op := .closing, ready := true })
    ∧ (3 ≤ v.toNat → exec (.dispatch f) s = .next { s with trace := s.trace ++ [.diag .malformedStatus] })

/-- R178, R179, R180 for the rows: a well-formed status row completes under the `KIND` that selects it. Under either
`KIND` each of the three rows does what `DISPATCH` does with its frame (R76, R236; that a row can be run under the other
`KIND` at all is log entry 8). -/
def Obligations.StatusRowsComplete : Prop :=
  (∀ (s : State) (m : Bytes), s.cfg.valid = true → ∀ i ∈ [Instr.sPos m, .sStat m, .sBad m],
    exec i s = exec (.dispatch (encodeFrame s.cfg s.cfg.addr0 s.cfg.addr1 s.cfg.classRead m)) s)
  ∧ (∀ (s : State) (m : Bytes) (v : Byte), statusValue? s.cfg m = some v →
    (s.kind = .getPosition → ∀ new : Rat,
      (v = 0xFF ∧ new = 1 / 2) ∨ (v.toNat ≤ 100 ∧ new = (v.toNat : Rat) / 100) →
      exec (.sPos m) s = .next { s with
        pos := new, kind := .getStatus, ready := true
        trace := if new = s.pos then s.trace else s.trace ++ [.publish s.op new] })
    ∧ (s.kind = .getStatus → ∀ o : OpState,
      (v = 0 ∧ o = .idle) ∨ (v = 1 ∧ o = .opening) ∨ (v = 2 ∧ o = .closing) →
      exec (.sStat m) s = .next { s with op := o, ready := true })
    ∧ (s.kind = .getStatus → 3 ≤ v.toNat →
      exec (.sBad m) s = .next { s with trace := s.trace ++ [.diag .malformedStatus] }))

/-- R177: a status frame with no byte at the offset is refused, whatever `KIND` is. -/
def Obligations.MissingValueByteIsRefused : Prop :=
  ∀ (s : State) (f : Bytes), s.cfg.valid = true → f[3]? = some s.cfg.classRead →
    f.length ≤ s.cfg.statusValueOffset.toNat → exec (.dispatch f) s = .refused .statusByteAbsent

/-- R76 with R170: the interpreter does with a frame exactly what the row it decodes to does. That a received frame's
row, run as an instruction, is the interpreter's rule of that frame is the model's reading (log entry 8); the row of a
status frame with no value byte under `KIND = GET_STATUS` is its choice (log entry 17). -/
def Obligations.DispatchRunsTheDecodedRow : Prop :=
  ∀ (s : State) (f : Bytes) (i : Instr),
    decodeReceived s.cfg s.kind f = .ok i → exec (.dispatch f) s = exec i s

/-- R36, R182, R184 with R172 to R180: the frame of `DISPATCH` and of the received frames. Memory is not touched; `POS`
and `KIND` move only while `KIND = GET_POSITION`; what is emitted is one `PUBLISH` of the state after, or one `DIAG`
with every register as it was. That the rows leave memory alone and that the status rows are read by `KIND` is the
model's reading of them as instructions (log entry 8). -/
def Obligations.InterpreterFrame : Prop :=
  ∀ (i : Instr) (s t : State), interprets i = true → exec i s = .next t →
    t.cfg = s.cfg ∧ t.ret = s.ret ∧ t.atCount = s.atCount ∧ SameMemory s t ∧ SamePorts s t
    ∧ (s.kind = .getStatus → t.kind = .getStatus ∧ t.pos = s.pos)
    ∧ (t.kind ≠ s.kind → t.op = s.op)
    ∧ ((t.ready = true ∧ (t.trace = s.trace ∨ t.trace = s.trace ++ [.publish t.op t.pos]))
      ∨ (∃ k, t.trace = s.trace ++ [.diag k])
        ∧ t.ready = s.ready ∧ t.op = s.op ∧ t.pos = s.pos ∧ t.kind = s.kind)

/-! ### The receive assembler -/

/-- R131 to R134 with R136: the four checked positions. A wrong byte is discarded with the whole buffer and is not
examined again. -/
def Obligations.HeaderBytesAreCheckedOneByOne : Prop :=
  ∀ (s : State) (b : Byte), Room s →
    (s.atCount = 0 → b = s.cfg.startMarker → exec (.rxByte b) s = .next { s with rxbuf := memAppend s.rxbuf b })
    ∧ (s.atCount = 0 → b ≠ s.cfg.startMarker → exec (.rxByte b) s = .next s)
    ∧ (s.atCount = 1 → b = s.cfg.addr0 → exec (.rxByte b) s = .next { s with rxbuf := memAppend s.rxbuf b })
    ∧ (s.atCount = 1 → b ≠ s.cfg.addr0 → exec (.rxByte b) s = .next { s with rxbuf := [] })
    ∧ (s.atCount = 2 → b = s.cfg.addr1 → exec (.rxByte b) s = .next { s with rxbuf := memAppend s.rxbuf b })
    ∧ (s.atCount = 2 → b ≠ s.cfg.addr1 → exec (.rxByte b) s = .next { s with rxbuf := [] })
    ∧ (s.atCount = 3 → b = s.cfg.classControl ∨ b = s.cfg.classRead →
        exec (.rxByte b) s = .next { s with rxbuf := memAppend s.rxbuf b })
    ∧ (s.atCount = 3 → b ≠ s.cfg.classControl → b ≠ s.cfg.classRead →
        exec (.rxByte b) s = .next { s with rxbuf := [] })

/-- R135: positions 4 and 5 take every byte and test nothing. -/
def Obligations.PositionsFourAndFiveTakeAnyByte : Prop :=
  ∀ (s : State) (b : Byte), Room s → s.atCount = 4 ∨ s.atCount = 5 →
    exec (.rxByte b) s = .next { s with rxbuf := memAppend s.rxbuf b }

/-- R139 with R137: from the seventh byte on a buffer that does not validate is kept. -/
def Obligations.ChecksumPendingKeepsTheBuffer : Prop :=
  ∀ (s : State) (b : Byte), Room s → 6 ≤ s.atCount → validate (s.rxBytes ++ [b]) = false →
    exec (.rxByte b) s = .next { s with rxbuf := memAppend s.rxbuf b }

/-- R138 with R137: the byte that makes the buffer validate completes the frame: the interpreter gets the whole buffer
and the buffer is cleared, all in one step. Where the interpreter refuses (R177, R178) the whole step is refused, and
nothing is cleared: that is the model's reach of those refusals (log entry 9). -/
def Obligations.CompletionDispatchesAndClears : Prop :=
  ∀ (s : State) (b : Byte), Room s → 6 ≤ s.atCount → validate (s.rxBytes ++ [b]) = true →
    (∀ t, exec (.dispatch (s.rxBytes ++ [b])) s = .next t → exec (.rxByte b) s = .next { t with rxbuf := [] })
    ∧ (∀ r, exec (.dispatch (s.rxBytes ++ [b])) s = .refused r → exec (.rxByte b) s = .refused r)

/-- R142: at a finite capacity any byte is a full reset. -/
def Obligations.CapacityForcesAFullReset : Prop :=
  ∀ (s : State) (b : Byte), s.cfg.rxbufCap = some s.atCount → exec (.rxByte b) s = .next { s with rxbuf := [] }

/-- R141, R36, R51: the frame of `RX.BYTE`. `AT` moves by one or to zero; the only address stored to is `AT`, every
other address reads as before, or the whole buffer is gone; and while nothing is completed no other register moves. -/
def Obligations.RxByteFrame : Prop :=
  ∀ (s t : State) (b : Byte), MemoryInv s → exec (.rxByte b) s = .next t →
    t.cfg = s.cfg ∧ t.ret = s.ret ∧ SamePorts s t
    ∧ ((t.atCount = s.atCount + 1
        ∧ (∀ a, a ≠ s.atCount → memRead t.rxbuf a = memRead s.rxbuf a)
        ∧ memRead t.rxbuf s.atCount = some b)
      ∨ (t.atCount = 0 ∧ ∀ a, memRead t.rxbuf a = none))
    ∧ ((s.atCount < 6 ∨ s.cfg.rxbufCap = some s.atCount ∨ validate (s.rxBytes ++ [b]) = false) →
      t.kind = s.kind ∧ t.op = s.op ∧ t.pos = s.pos ∧ t.ready = s.ready ∧ t.trace = s.trace)

/-- R143, the resynchronisation property: noise without a start marker, then a frame for this block no prefix of which
completes early, is exactly one `DISPATCH` of that frame. -/
def Obligations.ResynchronisationAfterNoise : Prop :=
  ∀ (s : State) (noise m : Bytes) (k : Byte),
    s.rxbuf = [] → (∀ w ∈ noise, w ≠ s.cfg.startMarker) →
    k = s.cfg.classControl ∨ k = s.cfg.classRead → 1 ≤ m.length →
    NoEarlyEnd (encodeFrame s.cfg s.cfg.addr0 s.cfg.addr1 k m) → Fits s.cfg (6 + m.length) →
    runOps (rxAll (noise ++ encodeFrame s.cfg s.cfg.addr0 s.cfg.addr1 k m)) s
      = exec (.dispatch (encodeFrame s.cfg s.cfg.addr0 s.cfg.addr1 k m)) s

/-- X7, the source's end-to-end scenario (R154, R131 to R138, R174): the close command, its frame fed back, ends in
`Closing` and ready. -/
def Obligations.CloseCommandLoopedBack : Prop :=
  ∀ s : State, s.cfg.valid = true → s.rxbuf = [] → s.pos ≠ 0 →
    ∃ f : Bytes,
      exec (.actSetpos 0) s = .next { s with trace := s.trace ++ [.tx f], ready := false }
      ∧ f.length = 7
      ∧ runOps (.actSetpos 0 :: rxAll f) s = .next { s with
          op := .closing, ready := true, trace := s.trace ++ [.tx f, .publish .closing s.pos] }

/-- R227, R139, R145: the stuck receiver. Past the header, bytes none of which completes a valid buffer are all kept,
and no register moves. -/
def Obligations.StuckReceiverKeepsEverything : Prop :=
  ∀ (s : State) (w : Bytes), 6 ≤ s.atCount → s.cfg.rxbufCap = none →
    (∀ n, 1 ≤ n → n ≤ w.length → validate (s.rxBytes ++ w.take n) = false) →
    ∃ t, runOps (rxAll w) s = .next t ∧ t.rxBytes = s.rxBytes ++ w
      ∧ t.kind = s.kind ∧ t.op = s.op ∧ t.pos = s.pos ∧ t.ready = s.ready ∧ t.trace = s.trace

/-! ### Reset, and the codes that do nothing -/

/-- R220, R35: every register at its reset value and the trace empty, in any state, mid-frame included. -/
def Obligations.ResetLeavesTheResetValues : Prop :=
  ∀ s : State, ∃ t, exec .reset s = .next t
    ∧ t.rxbuf = [] ∧ t.atCount = 0 ∧ t.kind = .getPosition ∧ t.op = s.cfg.opInit ∧ t.pos = s.cfg.posInit
    ∧ t.ready = true ∧ t.trace = [] ∧ t.cfg = s.cfg ∧ ∀ a, memRead t.rxbuf a = none

/-- R82: `000` does nothing, and the reserved codes are treated as `000`. -/
def Obligations.NopAndReservedCodesChangeNothing : Prop :=
  ∀ s : State, exec .nop s = .next s ∧ exec .reserved101 s = .next s ∧ exec .reserved110 s = .next s
    ∧ exec .reserved111 s = .next s

/-! ### Invariants and whole-machine rules -/

/-- R25, every step: with the memory's canonical form, the header invariant is kept. -/
def Obligations.EveryStepKeepsTheHeader : Prop :=
  ∀ s t : State, MemoryInv s → HeaderInv s → step s = .next t → HeaderInv t

/-- R50, R142: every step keeps the memory's canonical form, and keeps the buffer within a finite capacity. -/
def Obligations.EveryStepKeepsTheBufferForm : Prop :=
  (∀ s t : State, MemoryInv s → step s = .next t → MemoryInv t)
  ∧ (∀ s t : State, CapacityInv s → step s = .next t → CapacityInv t)

/-- R29: every step keeps `POS` among the values it can hold. -/
def Obligations.EveryStepKeepsThePosition : Prop :=
  ∀ s t : State, PositionInv s → step s = .next t → PositionInv t

/-- R35: the invariants hold right after reset, of whatever configuration. -/
def Obligations.ResetMeetsTheInvariants : Prop :=
  (∀ c : Config, MemoryInv (State.resetOf c) ∧ HeaderInv (State.resetOf c) ∧ PositionInv (State.resetOf c)
    ∧ CapacityInv (State.resetOf c))
  ∧ State.reset = State.resetOf Config.chip ∧ Config.chip.valid = true

/-- R26, R65: the configuration is immutable, under every operation and every step. -/
def Obligations.ConfigurationIsImmutable : Prop :=
  (∀ (i : Instr) (s t : State), exec i s = .next t → t.cfg = s.cfg)
  ∧ (∀ s t : State, step s = .next t → t.cfg = s.cfg)

/-- R190: "No operation of the block can fault". -/
def Obligations.NoStepFaults : Prop :=
  ∀ (s : State) (r : Fault), step s ≠ .fault r

/-- U1, U3, U5: a step is refused only on the inputs the spec gives no meaning: a command outside 0 to 1, or a byte that
completes a status frame whose value byte is absent or is no position. In every state the frame is not of class
`CONTROL`, and where the invariants hold it is of class `READ` (R25). -/
def Obligations.StepRefusesOnlyWhatHasNoMeaning : Prop :=
  ∀ (s : State) (r : Refusal), step s = .refused r →
    (r = .positionOutOfRange ∧ ∃ w rest, s.cmdIn = w :: rest ∧ w.op = 0b010 ∧ (w.p < 0 ∨ 1 < w.p))
    ∨ (∃ b rest, s.rxIn = b :: rest ∧ Completes s b
        ∧ (s.rxBytes ++ [b])[3]? ≠ some s.cfg.classControl
        ∧ (MemoryInv s → HeaderInv s → (s.rxBytes ++ [b])[3]? = some s.cfg.classRead)
        ∧ ((r = .statusByteAbsent ∧ (s.rxBytes ++ [b]).length ≤ s.cfg.statusValueOffset.toNat)
          ∨ ∃ v, r = .positionValueUndefined v ∧ (s.rxBytes ++ [b])[s.cfg.statusValueOffset.toNat]? = some v
              ∧ s.kind = .getPosition ∧ 100 < v.toNat ∧ v ≠ 0xFF))

/-- R27: `KIND` returns to `GET_POSITION` only by `POLL.POS` and by reset. The rows of functions and frames are run as
instructions in the model's reading (log entries 6, 7, 8). -/
def Obligations.KindReturnsOnlyByPollPosOrReset : Prop :=
  ∀ (i : Instr) (s t : State), exec i s = .next t → s.kind = .getStatus → t.kind = .getPosition →
    i = .pollPos ∨ i = .reset

/-- R28, R29, R184: `POS` and `OP` change only by reset and by the interpreter (inside a completing `RX.BYTE`, or as a
row). `POS` changes only under `KIND = GET_POSITION`, which moves on, and the change is published; `OP` changes with
`POS` and `KIND` as they were; either way `READY` is set. The rows of functions and frames are run as instructions in
the model's reading (log entries 6, 7, 8). -/
def Obligations.TrackedStateChangesOnlyByReceivedFrames : Prop :=
  ∀ (i : Instr) (s t : State), exec i s = .next t → i ≠ .reset →
    (t.pos ≠ s.pos ∨ t.op ≠ s.op →
      (interprets i = true ∨ ∃ b, i = .rxByte b ∧ Completes s b) ∧ t.ready = true)
    ∧ (t.pos ≠ s.pos → s.kind = .getPosition ∧ t.kind = .getStatus ∧ t.op = s.op
        ∧ t.trace = s.trace ++ [.publish t.op t.pos])
    ∧ (t.op ≠ s.op → t.pos = s.pos ∧ t.kind = s.kind)

/-- R30, R181: `READY` goes from 0 to 1 only by a completed frame or reset, never with a diagnostic; and from 1 to 0
only with a `TX`. The rows of functions and frames are run as instructions in the model's reading (log entries 6, 7,
8). -/
def Obligations.ReadyIsSetByFramesAndClearedBySending : Prop :=
  ∀ (i : Instr) (s t : State), exec i s = .next t →
    (s.ready = false → t.ready = true →
      i = .reset ∨ (interprets i = true ∨ ∃ b, i = .rxByte b ∧ Completes s b)
        ∧ ∀ k, t.trace ≠ s.trace ++ [.diag k])
    ∧ (s.ready = true → t.ready = false → sendsOnly i = true ∧ ∃ f, t.trace = s.trace ++ [.tx f])

/-- R36 (the column of what each operation emits), R130, R161: one operation emits at most one event. R81 alone would
allow a `TX` beside a `PUBLISH` or a `DIAG`. `RESET` leaves an empty trace (R35; log entry 1). The rows of functions and
frames are run as instructions in the model's reading (log entries 6, 7, 8). -/
def Obligations.OneOperationEmitsAtMostOneEvent : Prop :=
  ∀ (i : Instr) (s t : State), exec i s = .next t →
    (i = .reset → t.trace = []) ∧ (i ≠ .reset → t.trace = s.trace ∨ ∃ e, t.trace = s.trace ++ [e])

/-- R30, R31, R123, R183: the block reads neither `READY` nor what it has emitted. Whatever they hold, an instruction
goes on to the same registers, memory and ports and emits the same events (`RESET` leaves an empty trace), and `READY`
is written to the same value or left as it was. The rows of functions and frames are run as instructions in the model's
reading (log entries 6, 7, 8). -/
def Obligations.BlockReadsNeitherReadyNorTrace : Prop :=
  ∀ (i : Instr) (s t : State) (r : Bool) (tr : List OutEvent), exec i s = .next t →
    ∃ u, exec i { s with ready := r, trace := tr } = .next u
      ∧ u.rxbuf = t.rxbuf ∧ u.kind = t.kind ∧ u.op = t.op ∧ u.pos = t.pos ∧ u.ret = t.ret ∧ u.cfg = t.cfg
      ∧ SamePorts t u
      ∧ (i = .reset → t.trace = [] ∧ u.trace = [])
      ∧ (i ≠ .reset → ∃ ev, t.trace = s.trace ++ ev ∧ u.trace = tr ++ ev)
      ∧ (u.ready = t.ready ∨ (t.ready = s.ready ∧ u.ready = r))

/-- R63 for the four command operations, R36 and R122 for `TX.FRAME`: a sending operation and a byte that completes no
frame commute. R63 speaks of the command operations; that the rows `C.*` and `Q.*`, run as instructions, are their
`TX.FRAME` is the model's reading (log entry 7). -/
def Obligations.CommandAndNonCompletingByteCommute : Prop :=
  ∀ (i : Instr) (b : Byte) (s t : State), sendsOnly i = true → exec i s = .next t →
    (s.atCount < 6 ∨ s.cfg.rxbufCap = some s.atCount ∨ validate (s.rxBytes ++ [b]) = false) →
    ∃ s' u, exec (.rxByte b) s = .next s' ∧ exec i s' = .next u ∧ exec (.rxByte b) t = .next u

/-! ### The step -/

/-- R9, R82, R209: with one source offering, a step takes its next word, and runs the instruction it decodes to; with
none the block idles. What the ports still hold is all that `step` adds around `exec` (log entry 4). -/
def Obligations.StepRunsTheDecodedEvent : Prop :=
  ∀ s : State,
    (s.resetReq = false → s.rxIn = [] → s.cmdIn = [] → step s = .next s)
    ∧ (∀ w rest, s.resetReq = false → s.rxIn = [] → s.cmdIn = w :: rest →
        step s = exec (decodePort (.cmd w)) { s with cmdIn := rest })
    ∧ (∀ b rest, s.resetReq = false → s.rxIn = b :: rest → s.cmdIn = [] →
        step s = exec (decodePort (.rx b)) { s with rxIn := rest })
    ∧ (s.resetReq = true → s.rxIn = [] → s.cmdIn = [] →
        step s = exec (decodePort .reset) { s with resetReq := false })

/-- R62, R63, R198: whatever is offered together, a step takes exactly one of the events offered, the next one of its
port, and leaves the others where they are. Which one is free (log entry 5). Nothing but the step takes from the ports:
every instruction, reset among them, leaves them as they are (log entry 4). -/
def Obligations.StepTakesOneOfTheEventsOffered : Prop :=
  (∀ (i : Instr) (s t : State), exec i s = .next t → SamePorts s t)
  ∧ ∀ s : State, s.resetReq = true ∨ s.rxIn ≠ [] ∨ s.cmdIn ≠ [] →
    ∃ n, (n = s.turn ∨ n = s.turn + 1)
      ∧ ((s.resetReq = true ∧ step s = exec .reset { s with resetReq := false, turn := n })
        ∨ (∃ b rest, s.rxIn = b :: rest ∧ step s = exec (.rxByte b) { s with rxIn := rest, turn := n })
        ∨ (∃ w rest, s.cmdIn = w :: rest ∧ step s = exec (decodePort (.cmd w)) { s with cmdIn := rest, turn := n }))
end

