-- ==== Sys2Proof/Laws/Crc.lean ====
section
/-! SUPPORT. What the functions of the CRC unit and the serializer can do. -/

namespace Sys2Proof.Machine

/-- The two halves of a 16-bit value determine it. -/
theorem halves_ext {c d : Word16} (hl : lo8 c = lo8 d) (hh : hi8 c = hi8 d) : c = d := by
  apply BitVec.eq_of_getLsbD_eq
  intro i hi
  have l := congrArg (fun x => BitVec.getLsbD x i) hl
  have h := congrArg (fun x => BitVec.getLsbD x (i - 8)) hh
  simp only [lo8, hi8, BitVec.getLsbD_extractLsb'] at l h
  by_cases h8 : i < 8
  · simpa [h8] using l
  · rw [show 8 + (i - 8) = i by omega] at h
    simpa [show i - 8 < 8 by omega] using h

/-- One iteration of the loop is linear: it commutes with xor. -/
theorem crcBit_xor (c d : Word16) : crcBit (c ^^^ d) = crcBit c ^^^ crcBit d := by
  have key : (c ^^^ d) >>> 1 = (c >>> 1) ^^^ (d >>> 1) := BitVec.ushiftRight_xor_distrib c d 1
  unfold crcBit
  have twice : ∀ p x y : Word16, x ^^^ y = (x ^^^ p) ^^^ (y ^^^ p) := by
    intro p x y
    rw [BitVec.xor_assoc, BitVec.xor_comm y p, ← BitVec.xor_assoc p p y, BitVec.xor_self, BitVec.zero_xor]
  rw [BitVec.getLsbD_xor, key]
  cases c.getLsbD 0 <;> cases d.getLsbD 0 <;> simp
  · ac_rfl
  · ac_rfl
  · exact twice _ _ _

/-- The loop is linear. -/
theorem crcBits_xor (n : Nat) (c d : Word16) : crcBits n (c ^^^ d) = crcBits n c ^^^ crcBits n d := by
  induction n generalizing c d with
  | zero => rfl
  | succ n ih => simp [crcBits, crcBit_xor, ih]

/-- Bit 15 of the result tells whether the polynomial was applied, so an iteration loses nothing. -/
theorem crcBit_injective : Function.Injective crcBit := by
  intro c d h
  have zero : ∀ x : Word16, crcBit x = 0 → x = 0 := by
    intro x hx
    unfold crcBit at hx
    split at hx
    · have := congrArg (fun y => BitVec.getLsbD y 15) hx
      simp [Config.crcPoly] at this
    · next h0 =>
      apply BitVec.eq_of_getLsbD_eq
      intro i hi
      rcases Nat.eq_zero_or_pos i with rfl | hp
      · simpa using h0
      · have := congrArg (fun y => BitVec.getLsbD y (i - 1)) hx
        simpa [Nat.add_sub_cancel' hp] using this
  have : crcBit (c ^^^ d) = 0 := by rw [crcBit_xor, h, BitVec.xor_self]; rfl
  exact BitVec.xor_eq_zero_iff.1 (zero _ this)

/-- The loop loses nothing. -/
theorem crcBits_injective (n : Nat) : Function.Injective (crcBits n) := by
  induction n with
  | zero => exact fun _ _ h => h
  | succ n ih => exact fun _ _ h => crcBit_injective (ih h)

@[simp] theorem crcFrom_nil (c : Word16) : crcFrom c [] = c := rfl

@[simp] theorem crcFrom_cons (c : Word16) (b : Byte) (s : Bytes) : crcFrom c (b :: s) = crcFrom (crcStep c b) s := rfl

@[simp] theorem crcBytes_length (s : Bytes) : (crcBytes s).length = 2 := rfl

/-- `VALIDATE` of a body with two more bytes compares those with the body's checksum (R104). -/
theorem validate_append_two (m : Bytes) (x y : Byte) :
    validate (m ++ [x, y]) = decide ([x, y] = crcBytes m) := by
  have hl : (m ++ [x, y]).length - 2 = m.length := by simp
  have h2 : decide (2 ≤ (m ++ [x, y]).length) = true := by simp
  rw [validate, hl, h2, List.drop_left, List.take_left, Bool.true_and]

/-- A byte sequence that validates is a body and its checksum (R104, R105). -/
theorem validate_iff_exists (s : Bytes) : validate s = true ↔ ∃ m, s = m ++ crcBytes m := by
  constructor
  · intro h
    simp only [validate, Bool.and_eq_true, decide_eq_true_eq] at h
    exact ⟨s.take (s.length - 2), by rw [← h.2, List.take_append_drop]⟩
  · rintro ⟨m, rfl⟩
    rw [crcBytes, validate_append_two]
    simp [crcBytes]

/-- A frame with its checksum taken off (R120). -/
theorem ownFrame_eq (c : Config) (k : Byte) (m : Bytes) :
    ownFrame c k m = [c.startMarker, c.addr0, c.addr1, k] ++ m ++ crcBytes ([c.startMarker, c.addr0, c.addr1, k] ++ m) :=
  rfl

@[simp] theorem ownFrame_length (c : Config) (k : Byte) (m : Bytes) : (ownFrame c k m).length = 6 + m.length := by
  simp [ownFrame_eq]; omega

/-- Byte 3 of a frame is its class (R121). -/
theorem ownFrame_class (c : Config) (k : Byte) (m : Bytes) : (ownFrame c k m)[3]? = some k := rfl

/-- Byte 4 of a frame is the first payload byte (R71). -/
theorem ownFrame_sub (c : Config) (k x : Byte) (m : Bytes) : (ownFrame c k (x :: m))[4]? = some x := rfl

/-- Byte 5 of a frame is the second payload byte, and the checksum's low byte where there is none (R71, U4). -/
theorem ownFrame_target (c : Config) (k x : Byte) (m : Bytes) :
    (ownFrame c k (x :: m))[5]? = some (m.headD (lo8 (checksum [c.startMarker, c.addr0, c.addr1, k, x]))) := by
  cases m <;> rfl

end Sys2Proof.Machine
end

