-- ==== Sys2Proof/Laws/Memory.lean ====
section
/-! SUPPORT. The memory's operations: they keep the canonical form, a read after an append, and the bytes a buffer
holds. -/

namespace Sys2Proof.Machine

@[simp] theorem memAppend_length (m : Memory) (b : Byte) : (memAppend m b).length = m.length + 1 := by
  simp [memAppend]

@[simp] theorem memBytes_nil : memBytes [] = [] := rfl

@[simp] theorem memBytes_length (m : Memory) : (memBytes m).length = m.length := by simp [memBytes]

@[simp] theorem memBytes_append (m : Memory) (b : Byte) : memBytes (memAppend m b) = memBytes m ++ [b] := by
  simp [memBytes, memAppend]

@[simp] theorem memRead_nil (a : Nat) : memRead [] a = none := rfl

theorem Memory.wf_nil : Memory.wf [] = true := rfl

/-- The canonical form of a memory is that of its initial part, with the last cell at the next address. -/
theorem Memory.wf_concat (m : Memory) (cell : Host.Cell) :
    Memory.wf (m ++ [cell]) = true ↔ Memory.wf m = true ∧ cell.1 = m.length := by
  simp only [Memory.wf, decide_eq_true_eq, List.map_append, List.map_cons, List.map_nil, List.length_append,
    List.length_cons, List.length_nil, List.range_succ, Nat.zero_add]
  constructor
  · intro h
    have := List.append_inj h (by simp)
    simpa using this
  · rintro ⟨h, hc⟩
    rw [h, hc]

/-- The only write keeps the canonical form. -/
theorem Memory.wf_memAppend {m : Memory} (h : m.wf = true) (b : Byte) : (memAppend m b).wf = true :=
  (Memory.wf_concat m _).2 ⟨h, rfl⟩

/-- Storing the bytes of `f` one after another keeps the form; so every memory `memOfBytes` builds has it. -/
theorem Memory.wf_foldl (f : Bytes) {m : Memory} (h : m.wf = true) : (f.foldl memAppend m).wf = true := by
  induction f generalizing m with
  | nil => exact h
  | cons b f ih => exact ih (Memory.wf_memAppend h b)

theorem Memory.wf_memOfBytes (f : Bytes) : (memOfBytes f).wf = true := Memory.wf_foldl f Memory.wf_nil

/-- In a canonical memory the byte at an address is the buffer's byte at that index (20_memory R50). -/
theorem memRead_eq_getElem {m : Memory} (h : m.wf = true) (a : Nat) : memRead m a = (memBytes m)[a]? := by
  induction m using List.reverseRecOn with
  | nil => rfl
  | append_singleton m cell ih =>
    obtain ⟨hm, hc⟩ := (Memory.wf_concat m cell).1 h
    have ih := ih hm
    simp only [memRead, memBytes, List.find?_append, List.map_append, List.map_cons, List.map_nil] at ih ⊢
    rcases Nat.lt_trichotomy a m.length with hlt | heq | hgt
    · rw [List.getElem?_append_left (by simpa using hlt), ← ih]
      have : (List.find? (fun cell => cell.1 == a) m) ≠ none := by
        intro hn
        rw [hn] at ih
        have := ih.symm
        simp at this
        omega
      obtain ⟨x, hx⟩ := Option.ne_none_iff_exists'.1 this
      simp [hx]
    · have hn : List.find? (fun cell => cell.1 == a) m = none := by
        cases hf : List.find? (fun cell => cell.1 == a) m with
        | none => rfl
        | some x =>
          rw [hf, List.getElem?_eq_none (by simp; omega)] at ih
          cases ih
      subst heq
      simp [hn, hc]
    · have hn : List.find? (fun cell => cell.1 == a) m = none := by
        cases hf : List.find? (fun cell => cell.1 == a) m with
        | none => rfl
        | some x =>
          rw [hf, List.getElem?_eq_none (by simp; omega)] at ih
          cases ih
      have hne : (cell.1 == a) = false := by simpa using (by omega : cell.1 ≠ a)
      rw [List.getElem?_eq_none (by simp; omega)]
      simp [hn, hne]

/-- An append leaves every other address alone. -/
theorem memRead_memAppend_other (m : Memory) (b : Byte) {a : Nat} (h : a ≠ m.length) :
    memRead (memAppend m b) a = memRead m a := by
  have : (m.length == a) = false := by simpa using (Ne.symm h)
  simp [memRead, memAppend, List.find?_append, this]

/-- Reading back the byte just appended. -/
theorem memRead_memAppend_self {m : Memory} (h : m.wf = true) (b : Byte) :
    memRead (memAppend m b) m.length = some b := by
  rw [memRead_eq_getElem (Memory.wf_memAppend h b), memBytes_append]
  simp

/-- Feeding bytes one by one stores them in order. -/
theorem memBytes_foldl (f : Bytes) (m : Memory) : memBytes (f.foldl memAppend m) = memBytes m ++ f := by
  induction f generalizing m with
  | nil => simp
  | cons b f ih => simp [ih]

end Sys2Proof.Machine
end

