-- ==== Sys2Proof/Laws/State.lean ====
section
/-! SUPPORT. One lemma per field per update of the state: what each update writes and that it leaves the rest. -/

namespace Sys2Proof.Machine

variable (s : State)

@[simp] theorem State.setRxbuf_cfg (m : Memory) : (s.setRxbuf m).cfg = s.cfg := rfl
@[simp] theorem State.setRxbuf_rxbuf (m : Memory) : (s.setRxbuf m).rxbuf = m := rfl
@[simp] theorem State.setRxbuf_kind (m : Memory) : (s.setRxbuf m).kind = s.kind := rfl
@[simp] theorem State.setRxbuf_op (m : Memory) : (s.setRxbuf m).op = s.op := rfl
@[simp] theorem State.setRxbuf_pos (m : Memory) : (s.setRxbuf m).pos = s.pos := rfl
@[simp] theorem State.setRxbuf_ready (m : Memory) : (s.setRxbuf m).ready = s.ready := rfl
@[simp] theorem State.setRxbuf_trace (m : Memory) : (s.setRxbuf m).trace = s.trace := rfl
@[simp] theorem State.setRxbuf_ret (m : Memory) : (s.setRxbuf m).ret = s.ret := rfl
@[simp] theorem State.setRxbuf_resetReq (m : Memory) : (s.setRxbuf m).resetReq = s.resetReq := rfl
@[simp] theorem State.setRxbuf_rxIn (m : Memory) : (s.setRxbuf m).rxIn = s.rxIn := rfl
@[simp] theorem State.setRxbuf_cmdIn (m : Memory) : (s.setRxbuf m).cmdIn = s.cmdIn := rfl
@[simp] theorem State.setRxbuf_turn (m : Memory) : (s.setRxbuf m).turn = s.turn := rfl

@[simp] theorem State.setKind_cfg (k : ReqKind) : (s.setKind k).cfg = s.cfg := rfl
@[simp] theorem State.setKind_rxbuf (k : ReqKind) : (s.setKind k).rxbuf = s.rxbuf := rfl
@[simp] theorem State.setKind_kind (k : ReqKind) : (s.setKind k).kind = k := rfl
@[simp] theorem State.setKind_op (k : ReqKind) : (s.setKind k).op = s.op := rfl
@[simp] theorem State.setKind_pos (k : ReqKind) : (s.setKind k).pos = s.pos := rfl
@[simp] theorem State.setKind_ready (k : ReqKind) : (s.setKind k).ready = s.ready := rfl
@[simp] theorem State.setKind_trace (k : ReqKind) : (s.setKind k).trace = s.trace := rfl
@[simp] theorem State.setKind_ret (k : ReqKind) : (s.setKind k).ret = s.ret := rfl
@[simp] theorem State.setKind_resetReq (k : ReqKind) : (s.setKind k).resetReq = s.resetReq := rfl
@[simp] theorem State.setKind_rxIn (k : ReqKind) : (s.setKind k).rxIn = s.rxIn := rfl
@[simp] theorem State.setKind_cmdIn (k : ReqKind) : (s.setKind k).cmdIn = s.cmdIn := rfl
@[simp] theorem State.setKind_turn (k : ReqKind) : (s.setKind k).turn = s.turn := rfl

@[simp] theorem State.setOp_cfg (o : OpState) : (s.setOp o).cfg = s.cfg := rfl
@[simp] theorem State.setOp_rxbuf (o : OpState) : (s.setOp o).rxbuf = s.rxbuf := rfl
@[simp] theorem State.setOp_kind (o : OpState) : (s.setOp o).kind = s.kind := rfl
@[simp] theorem State.setOp_op (o : OpState) : (s.setOp o).op = o := rfl
@[simp] theorem State.setOp_pos (o : OpState) : (s.setOp o).pos = s.pos := rfl
@[simp] theorem State.setOp_ready (o : OpState) : (s.setOp o).ready = s.ready := rfl
@[simp] theorem State.setOp_trace (o : OpState) : (s.setOp o).trace = s.trace := rfl
@[simp] theorem State.setOp_ret (o : OpState) : (s.setOp o).ret = s.ret := rfl
@[simp] theorem State.setOp_resetReq (o : OpState) : (s.setOp o).resetReq = s.resetReq := rfl
@[simp] theorem State.setOp_rxIn (o : OpState) : (s.setOp o).rxIn = s.rxIn := rfl
@[simp] theorem State.setOp_cmdIn (o : OpState) : (s.setOp o).cmdIn = s.cmdIn := rfl
@[simp] theorem State.setOp_turn (o : OpState) : (s.setOp o).turn = s.turn := rfl

@[simp] theorem State.setPos_cfg (p : Rat) : (s.setPos p).cfg = s.cfg := rfl
@[simp] theorem State.setPos_rxbuf (p : Rat) : (s.setPos p).rxbuf = s.rxbuf := rfl
@[simp] theorem State.setPos_kind (p : Rat) : (s.setPos p).kind = s.kind := rfl
@[simp] theorem State.setPos_op (p : Rat) : (s.setPos p).op = s.op := rfl
@[simp] theorem State.setPos_pos (p : Rat) : (s.setPos p).pos = p := rfl
@[simp] theorem State.setPos_ready (p : Rat) : (s.setPos p).ready = s.ready := rfl
@[simp] theorem State.setPos_trace (p : Rat) : (s.setPos p).trace = s.trace := rfl
@[simp] theorem State.setPos_ret (p : Rat) : (s.setPos p).ret = s.ret := rfl
@[simp] theorem State.setPos_resetReq (p : Rat) : (s.setPos p).resetReq = s.resetReq := rfl
@[simp] theorem State.setPos_rxIn (p : Rat) : (s.setPos p).rxIn = s.rxIn := rfl
@[simp] theorem State.setPos_cmdIn (p : Rat) : (s.setPos p).cmdIn = s.cmdIn := rfl
@[simp] theorem State.setPos_turn (p : Rat) : (s.setPos p).turn = s.turn := rfl

@[simp] theorem State.setReady_cfg (r : Bool) : (s.setReady r).cfg = s.cfg := rfl
@[simp] theorem State.setReady_rxbuf (r : Bool) : (s.setReady r).rxbuf = s.rxbuf := rfl
@[simp] theorem State.setReady_kind (r : Bool) : (s.setReady r).kind = s.kind := rfl
@[simp] theorem State.setReady_op (r : Bool) : (s.setReady r).op = s.op := rfl
@[simp] theorem State.setReady_pos (r : Bool) : (s.setReady r).pos = s.pos := rfl
@[simp] theorem State.setReady_ready (r : Bool) : (s.setReady r).ready = r := rfl
@[simp] theorem State.setReady_trace (r : Bool) : (s.setReady r).trace = s.trace := rfl
@[simp] theorem State.setReady_ret (r : Bool) : (s.setReady r).ret = s.ret := rfl
@[simp] theorem State.setReady_resetReq (r : Bool) : (s.setReady r).resetReq = s.resetReq := rfl
@[simp] theorem State.setReady_rxIn (r : Bool) : (s.setReady r).rxIn = s.rxIn := rfl
@[simp] theorem State.setReady_cmdIn (r : Bool) : (s.setReady r).cmdIn = s.cmdIn := rfl
@[simp] theorem State.setReady_turn (r : Bool) : (s.setReady r).turn = s.turn := rfl

@[simp] theorem State.emit_cfg (e : OutEvent) : (s.emit e).cfg = s.cfg := rfl
@[simp] theorem State.emit_rxbuf (e : OutEvent) : (s.emit e).rxbuf = s.rxbuf := rfl
@[simp] theorem State.emit_kind (e : OutEvent) : (s.emit e).kind = s.kind := rfl
@[simp] theorem State.emit_op (e : OutEvent) : (s.emit e).op = s.op := rfl
@[simp] theorem State.emit_pos (e : OutEvent) : (s.emit e).pos = s.pos := rfl
@[simp] theorem State.emit_ready (e : OutEvent) : (s.emit e).ready = s.ready := rfl
@[simp] theorem State.emit_trace (e : OutEvent) : (s.emit e).trace = s.trace ++ [e] := rfl
@[simp] theorem State.emit_ret (e : OutEvent) : (s.emit e).ret = s.ret := rfl
@[simp] theorem State.emit_resetReq (e : OutEvent) : (s.emit e).resetReq = s.resetReq := rfl
@[simp] theorem State.emit_rxIn (e : OutEvent) : (s.emit e).rxIn = s.rxIn := rfl
@[simp] theorem State.emit_cmdIn (e : OutEvent) : (s.emit e).cmdIn = s.cmdIn := rfl
@[simp] theorem State.emit_turn (e : OutEvent) : (s.emit e).turn = s.turn := rfl

@[simp] theorem State.setRet_cfg (v : FnValue) : (s.setRet v).cfg = s.cfg := rfl
@[simp] theorem State.setRet_rxbuf (v : FnValue) : (s.setRet v).rxbuf = s.rxbuf := rfl
@[simp] theorem State.setRet_kind (v : FnValue) : (s.setRet v).kind = s.kind := rfl
@[simp] theorem State.setRet_op (v : FnValue) : (s.setRet v).op = s.op := rfl
@[simp] theorem State.setRet_pos (v : FnValue) : (s.setRet v).pos = s.pos := rfl
@[simp] theorem State.setRet_ready (v : FnValue) : (s.setRet v).ready = s.ready := rfl
@[simp] theorem State.setRet_trace (v : FnValue) : (s.setRet v).trace = s.trace := rfl
@[simp] theorem State.setRet_ret (v : FnValue) : (s.setRet v).ret = some v := rfl
@[simp] theorem State.setRet_resetReq (v : FnValue) : (s.setRet v).resetReq = s.resetReq := rfl
@[simp] theorem State.setRet_rxIn (v : FnValue) : (s.setRet v).rxIn = s.rxIn := rfl
@[simp] theorem State.setRet_cmdIn (v : FnValue) : (s.setRet v).cmdIn = s.cmdIn := rfl
@[simp] theorem State.setRet_turn (v : FnValue) : (s.setRet v).turn = s.turn := rfl

@[simp] theorem State.append_eq (b : Byte) : s.append b = s.setRxbuf (memAppend s.rxbuf b) := rfl
@[simp] theorem State.clear_eq : s.clear = s.setRxbuf [] := rfl
@[simp] theorem State.publish_eq : s.publish = s.emit (.publish s.op s.pos) := rfl
@[simp] theorem State.raise_eq (k : DiagKind) : s.raise k = s.emit (.diag k) := rfl
@[simp] theorem State.linkBusy_eq : s.linkBusy = s.setReady false := rfl
@[simp] theorem State.linkReady_eq : s.linkReady = s.setReady true := rfl

end Sys2Proof.Machine
end

