-- ==== Sys2Proof/Laws/Operations.lean ====
section
/-! SUPPORT. For each shared operation, everything it can do. -/

namespace Sys2Proof.Machine

/-- All that sending a frame does (41_serializer R122). -/
theorem sendFrame_eq (k : Byte) (m : Bytes) (s : State) :
    sendFrame k m s = { s with trace := s.trace ++ [.tx (ownFrame s.cfg k m)], ready := false } := rfl

/-- All that a well-formed response does (44_interpreter R172 to R175). -/
theorem respond_eq (o : OpState) (s : State) :
    respond o s = { s with op := o, ready := true, trace := s.trace ++ [.publish o s.pos] } := rfl

/-- What the interpreter can do to the state: a response, a position, a status code, a diagnostic (44_interpreter R172
to R180). -/
def Interpreted (s t : State) : Prop :=
  (∃ o, t = { s with op := o, ready := true, trace := s.trace ++ [.publish o s.pos] })
  ∨ (s.kind = .getPosition ∧ ∃ v new, positionOfValue v = some new ∧ t = { s with
      pos := new, kind := .getStatus, ready := true
      trace := if new = s.pos then s.trace else s.trace ++ [.publish s.op new] })
  ∨ (s.kind = .getStatus ∧ ∃ o, t = { s with op := o, ready := true })
  ∨ (∃ k, t = { s with trace := s.trace ++ [.diag k] })

/-- What reading a position value byte gives (44_interpreter R178). -/
theorem readPosition_eq (v : Byte) (s : State) :
    readPosition v s = match positionOfValue v with
      | some new => .next { s with
          pos := new, kind := .getStatus, ready := true
          trace := if new = s.pos then s.trace else s.trace ++ [.publish s.op new] }
      | none => .refused (.positionValueUndefined v) := by
  unfold readPosition
  cases positionOfValue v with
  | none => rfl
  | some new =>
    by_cases h : new = s.pos
    · subst h; simp [updatePosition, State.setKind, State.linkReady, State.setReady]
    · simp [updatePosition, h, State.setKind, State.linkReady, State.setReady, State.setPos, State.publish, State.emit]

/-- What reading an operation value byte gives (44_interpreter R179, R180). -/
theorem readStatus_eq (v : Byte) (s : State) :
    readStatus v s = match opOfCode v with
      | some o => .next { s with op := o, ready := true }
      | none => .next { s with trace := s.trace ++ [.diag .malformedStatus] } := rfl

theorem respondMove_next {f : Bytes} {s t : State} (h : respondMove f s = .next t) : Interpreted s t := by
  unfold respondMove at h
  split at h
  · cases h; exact .inl ⟨_, respond_eq _ _⟩
  · cases h

theorem interpretStatus_next {f : Bytes} {s t : State} (h : interpretStatus f s = .next t) : Interpreted s t := by
  unfold interpretStatus at h
  split at h
  · cases h
  next v _ =>
  split at h
  next hk =>
    rw [readPosition_eq] at h
    cases hv : positionOfValue v with
    | none => simp [hv] at h
    | some new => simp only [hv] at h; cases h; exact .inr (.inl ⟨hk, v, new, hv, rfl⟩)
  next hk =>
    rw [readStatus_eq] at h
    cases ho : opOfCode v with
    | none => simp only [ho] at h; cases h; exact .inr (.inr (.inr ⟨_, rfl⟩))
    | some o => simp only [ho] at h; cases h; exact .inr (.inr (.inl ⟨hk, o, rfl⟩))

/-- `DISPATCH`, whatever the frame, does one of the things of `Interpreted` (44_interpreter R170). -/
theorem execDispatch_next {f : Bytes} {s t : State} (h : execDispatch f s = .next t) : Interpreted s t := by
  unfold execDispatch at h
  split at h
  · cases h
  split at h
  · split at h
    · cases h
    unfold interpretResponse at h
    split at h
    · cases h; exact .inl ⟨_, respond_eq _ _⟩
    · cases h; exact .inl ⟨_, respond_eq _ _⟩
    · cases h; exact .inl ⟨_, respond_eq _ _⟩
    · exact respondMove_next h
    · cases h; exact .inr (.inr (.inr ⟨_, rfl⟩))
  · exact interpretStatus_next h

/-- The received rows do one of the things of `Interpreted`. -/
theorem exec_interprets_next {i : Instr} {s t : State} (hi : interprets i = true) (h : exec i s = .next t) :
    Interpreted s t := by
  cases i <;> simp [interprets] at hi
  case dispatch => exact execDispatch_next h
  case rStop => cases h; exact .inl ⟨_, respond_eq _ _⟩
  case rOpen => cases h; exact .inl ⟨_, respond_eq _ _⟩
  case rClose => cases h; exact .inl ⟨_, respond_eq _ _⟩
  case rSetpos => exact respondMove_next h
  case rBad => cases h; exact .inr (.inr (.inr ⟨_, rfl⟩))
  case sPos => exact interpretStatus_next h
  case sStat => exact interpretStatus_next h
  case sBad => exact interpretStatus_next h

/-- What the sending operations can do: `ACT.SETPOS` may do nothing, `POLL.POS` writes `KIND`, all others only send
(43_command_encoder R161). -/
theorem exec_sendsOnly_next {i : Instr} {s t : State} (hi : sendsOnly i = true) (h : exec i s = .next t) :
    (t = s ∧ ∃ p, i = .actSetpos p)
    ∨ ∃ f, t = { s with
        kind := if i = .pollPos then .getPosition else s.kind
        trace := s.trace ++ [.tx f], ready := false } := by
  cases i <;> simp [sendsOnly] at hi
  case actSetpos p =>
    simp only [exec, execActSetpos] at h
    split at h
    · split at h
      · cases h; exact .inl ⟨rfl, _, rfl⟩
      · cases h; exact .inr ⟨_, rfl⟩
    · cases h
  all_goals cases h; exact .inr ⟨_, rfl⟩

/-- An outcome with `m` for the buffer of its next state. -/
def withRxbuf (m : Memory) : Outcome → Outcome
  | .next t    => .next (t.setRxbuf m)
  | .fault r   => .fault r
  | .refused r => .refused r

theorem interpretResponse_setRxbuf (x : Byte) (f : Bytes) (s : State) (m : Memory) :
    interpretResponse x f (s.setRxbuf m) = withRxbuf m (interpretResponse x f s) := by
  simp only [interpretResponse, State.setRxbuf_cfg]
  cases subCommandOf s.cfg x with
  | none => rfl
  | some c => cases c with
    | setPosition => simp only [respondMove]; cases f[5]? <;> rfl
    | _ => rfl

theorem interpretStatus_setRxbuf (f : Bytes) (s : State) (m : Memory) :
    interpretStatus f (s.setRxbuf m) = withRxbuf m (interpretStatus f s) := by
  unfold interpretStatus
  simp only [State.setRxbuf_cfg, State.setRxbuf_kind]
  cases f[s.cfg.statusValueOffset.toNat]? with
  | none => rfl
  | some v =>
    cases s.kind with
    | getPosition => simp only [readPosition_eq]; cases positionOfValue v <;> rfl
    | getStatus => simp only [readStatus_eq]; cases opOfCode v <;> rfl

/-- The interpreter does not look at the buffer: it gives the same with any buffer (44_interpreter R171, R183). -/
theorem execDispatch_setRxbuf (f : Bytes) (s : State) (m : Memory) :
    execDispatch f (s.setRxbuf m) = withRxbuf m (execDispatch f s) := by
  unfold execDispatch
  cases f[3]? with
  | none => rfl
  | some k =>
    by_cases hk : k = s.cfg.classControl
    · have hk' : k = (s.setRxbuf m).cfg.classControl := hk
      simp only [if_pos hk, if_pos hk']
      cases f[4]? with
      | none => rfl
      | some x => exact interpretResponse_setRxbuf x f s m
    · have hk' : k ≠ (s.setRxbuf m).cfg.classControl := hk
      simp only [if_neg hk, if_neg hk']
      exact interpretStatus_setRxbuf f s m

/-- Everything one `RX.BYTE` can do when it goes on (42_assembler R141): a rejected or overflowing byte clears the
buffer, an accepted one is appended, a completing one is interpreted and the buffer cleared. -/
theorem execRxByte_next {b : Byte} {s t : State} (h : execRxByte b s = .next t) :
    (t = { s with rxbuf := [] } ∧ (s.cfg.rxbufCap = some s.atCount ∨ s.atCount < 4))
    ∨ (t = { s with rxbuf := memAppend s.rxbuf b } ∧ s.cfg.rxbufCap ≠ some s.atCount
        ∧ (s.atCount = 0 → b = s.cfg.startMarker) ∧ (s.atCount = 1 → b = s.cfg.addr0)
        ∧ (s.atCount = 2 → b = s.cfg.addr1)
        ∧ (s.atCount = 3 → b = s.cfg.classControl ∨ b = s.cfg.classRead)
        ∧ (6 ≤ s.atCount → validate (s.rxBytes ++ [b]) = false))
    ∨ (s.cfg.rxbufCap ≠ some s.atCount ∧ 6 ≤ s.atCount ∧ validate (s.rxBytes ++ [b]) = true
        ∧ ∃ u, execDispatch (s.rxBytes ++ [b]) s = .next u ∧ t = { u with rxbuf := [] }) := by
  have hbytes : (s.append b).rxBytes = s.rxBytes ++ [b] := by simp [State.rxBytes]
  unfold execRxByte at h
  split at h
  next hc => cases h; exact .inl ⟨rfl, .inl hc⟩
  next hc =>
  have header : ∀ e : Bool, s.atCount < 4 → (Host.Outcome.next (headerByte e b s) : Outcome) = .next t →
      (t = { s with rxbuf := [] } ∧ s.atCount < 4) ∨ (t = { s with rxbuf := memAppend s.rxbuf b } ∧ e = true) := by
    intro e ha he
    cases e <;> cases he
    · exact .inl ⟨rfl, ha⟩
    · exact .inr ⟨rfl, rfl⟩
  split at h
  next ha =>
    rcases header _ (by omega) h with ⟨h1, h2⟩ | ⟨h1, h2⟩
    · exact .inl ⟨h1, .inr h2⟩
    · refine .inr (.inl ⟨h1, hc, fun _ => by simpa using h2, ?_, ?_, ?_, ?_⟩) <;> omega
  next ha =>
    rcases header _ (by omega) h with ⟨h1, h2⟩ | ⟨h1, h2⟩
    · exact .inl ⟨h1, .inr h2⟩
    · refine .inr (.inl ⟨h1, hc, ?_, fun _ => by simpa using h2, ?_, ?_, ?_⟩) <;> omega
  next ha =>
    rcases header _ (by omega) h with ⟨h1, h2⟩ | ⟨h1, h2⟩
    · exact .inl ⟨h1, .inr h2⟩
    · refine .inr (.inl ⟨h1, hc, ?_, ?_, fun _ => by simpa using h2, ?_, ?_⟩) <;> omega
  next ha =>
    rcases header _ (by omega) h with ⟨h1, h2⟩ | ⟨h1, h2⟩
    · exact .inl ⟨h1, .inr h2⟩
    · refine .inr (.inl ⟨h1, hc, ?_, ?_, ?_, fun _ => by simpa using h2, ?_⟩) <;> omega
  next ha => cases h; refine .inr (.inl ⟨rfl, hc, ?_, ?_, ?_, ?_, ?_⟩) <;> omega
  next ha => cases h; refine .inr (.inl ⟨rfl, hc, ?_, ?_, ?_, ?_, ?_⟩) <;> omega
  next n ha =>
    unfold accumulate at h
    rw [hbytes] at h
    split at h
    next hv =>
      refine .inr (.inr ⟨hc, by omega, hv, ?_⟩)
      rw [State.append_eq, execDispatch_setRxbuf] at h
      cases hd : execDispatch (s.rxBytes ++ [b]) s with
      | next u => rw [hd] at h; cases h; exact ⟨u, rfl, rfl⟩
      | fault r => rw [hd] at h; cases h
      | refused r => rw [hd] at h; cases h
    next hv =>
      cases h
      refine .inr (.inl ⟨rfl, hc, ?_, ?_, ?_, ?_, fun _ => by simpa using hv⟩) <;> omega

/-- A position value byte stands for 1/2 or for `k/100` with `k` at most 100 (44_interpreter R178). -/
theorem positionOfValue_some {v : Byte} {new : Rat} (h : positionOfValue v = some new) :
    (v = 0xFF ∧ new = 1 / 2) ∨ (v.toNat ≤ 100 ∧ new = (v.toNat : Rat) / 100) := by
  unfold positionOfValue at h
  split at h
  next hv => cases h; exact .inl ⟨hv, rfl⟩
  next =>
    split at h
    next hv => cases h; exact .inr ⟨hv, by simp [percent, Rat.mkRat_eq_div]⟩
    next => cases h

/-- `clearAfter` keeps what kind of outcome it is. -/
theorem clearAfter_next {o : Outcome} {t : State} (h : clearAfter o = .next t) :
    ∃ u, o = .next u ∧ t = u.clear := by
  cases o <;> cases h
  exact ⟨_, rfl, rfl⟩

/-- Taking a word changes the ports and the count of choices only, and the word is the next of its port
(20_memory R58, R62). -/
theorem takeEvent_some {s t : State} {w : PortWord} (h : takeEvent s = some (w, t)) :
    ∃ n, (n = s.turn ∨ n = s.turn + 1)
      ∧ ((s.resetReq = true ∧ w = .reset ∧ t = { s with resetReq := false, turn := n })
        ∨ (∃ b rest, s.rxIn = b :: rest ∧ w = .rx b ∧ t = { s with rxIn := rest, turn := n })
        ∨ (∃ c rest, s.cmdIn = c :: rest ∧ w = .cmd c ∧ t = { s with cmdIn := rest, turn := n })) := by
  unfold takeEvent at h
  have hturn : (arbitrate s.turn (offers s)).2 = s.turn ∨ (arbitrate s.turn (offers s)).2 = s.turn + 1 := by
    unfold arbitrate; split <;> simp
  split at h
  · cases h
  next src n heq =>
    rw [heq] at hturn
    refine ⟨n, hturn, ?_⟩
    cases src with
    | resetLine =>
      simp only [takeFrom] at h
      split at h
      next hr => cases h; exact .inl ⟨hr, rfl, rfl⟩
      next => cases h
    | rxPort =>
      simp only [takeFrom] at h
      split at h
      · cases h
      next b rest hr => cases h; exact .inr (.inl ⟨b, rest, hr, rfl, rfl⟩)
    | cmdPort =>
      simp only [takeFrom] at h
      split at h
      · cases h
      next c rest hr => cases h; exact .inr (.inr ⟨c, rest, hr, rfl, rfl⟩)

/-- Everything an instruction can do when it goes on: `RESET`; one received byte; nothing; a function's value returned; a
frame sent; a frame interpreted. -/
theorem exec_next {i : Instr} {s t : State} (h : exec i s = .next t) :
    (i = .reset ∧ t = { State.resetOf s.cfg with
      resetReq := s.resetReq, rxIn := s.rxIn, cmdIn := s.cmdIn, turn := s.turn })
    ∨ (∃ b, i = .rxByte b ∧ execRxByte b s = .next t)
    ∨ t = s
    ∨ (∃ v, t = { s with ret := v } ∧ interprets i = false ∧ sendsOnly i = false)
    ∨ (sendsOnly i = true ∧ ∃ f, t = { s with
        kind := if i = .pollPos then .getPosition else s.kind
        trace := s.trace ++ [.tx f], ready := false })
    ∨ (interprets i = true ∧ Interpreted s t) := by
  have hs := @exec_sendsOnly_next i s t
  have hin := @exec_interprets_next i s t
  cases i
  case reset => cases h; exact .inl ⟨rfl, rfl⟩
  case rxByte b => exact .inr (.inl ⟨b, rfl, h⟩)
  case nop => cases h; simp
  case reserved101 => cases h; simp
  case reserved110 => cases h; simp
  case reserved111 => cases h; simp
  case crcStep => cases h; exact .inr (.inr (.inr (.inl ⟨_, rfl, rfl, rfl⟩)))
  case checksum => cases h; exact .inr (.inr (.inr (.inl ⟨_, rfl, rfl, rfl⟩)))
  case validate => cases h; exact .inr (.inr (.inr (.inl ⟨_, rfl, rfl, rfl⟩)))
  case encode => cases h; exact .inr (.inr (.inr (.inl ⟨_, rfl, rfl, rfl⟩)))
  all_goals first
    | exact .inr (.inr (.inr (.inr (.inr ⟨rfl, hin rfl h⟩))))
    | (rcases hs rfl h with ⟨h1, -⟩ | h2
       · exact .inr (.inr (.inl h1))
       · exact .inr (.inr (.inr (.inr (.inl ⟨rfl, h2⟩)))))

/-- A step that goes on idled, or ran one decoded event with the ports moved on (20_memory R57). -/
theorem step_next {s t : State} (h : step s = .next t) :
    t = s ∨ ∃ w u, takeEvent s = some (w, u) ∧ exec (decodePort w) u = .next t := by
  unfold step at h
  split at h
  · cases h; exact .inl rfl
  next w u hw => exact .inr ⟨w, u, hw, h⟩

end Sys2Proof.Machine
end

