-- ==== Sys2Proof/Laws/PerInstr.lean ====
section
/-! SUPPORT. A law of every instruction, one lemma per constructor: the wire encoding of a well-formed row, sent or
received, is a completed frame of the block, so the interpreter may be given it (30_encoding R70, R77, 44_interpreter
R170). -/

namespace Sys2Proof.Laws.WireFrame

open Sys2Proof Sys2Proof.Machine

/-- The bytes an instruction has on the wire, if any, are a completed frame. -/
def Statement (i : Instr) : Prop :=
  ∀ (c : Config) (f : Bytes), i.wf c = true →
    encode c i = some (.sent f) ∨ encode c i = some (.received f) → completedFrame c f = true

/-- `ENCODE` for this block, a legal class and a payload that is not empty gives a completed frame. -/
theorem completedFrame_ownFrame {c : Config} {k : Byte} {m : Bytes} (hk : k = c.classControl ∨ k = c.classRead)
    (hm : 1 ≤ m.length) : completedFrame c (ownFrame c k m) = true := by
  simp only [completedFrame, Bool.and_eq_true, Bool.or_eq_true, decide_eq_true_eq]
  refine ⟨⟨⟨⟨⟨?_, rfl⟩, rfl⟩, rfl⟩, ?_⟩, (validate_iff_exists _).2 ⟨_, rfl⟩⟩
  · rw [ownFrame_length, Config.minFrameRx]; omega
  · rcases hk with rfl | rfl
    · exact .inl rfl
    · exact .inr rfl

/-- A row whose only encoding is the frame of class `k` and payload `m`. -/
theorem of_ownFrame {i : Instr} {k : Config → Byte} {m : Config → Bytes}
    (he : ∀ c f, encode c i = some (.sent f) ∨ encode c i = some (.received f) → f = ownFrame c (k c) (m c))
    (hk : ∀ c, k c = c.classControl ∨ k c = c.classRead)
    (hm : ∀ c, i.wf c = true → 1 ≤ (m c).length) : Statement i := by
  intro c f hw h
  rw [he c f h]
  exact completedFrame_ownFrame (hk c) (hm c hw)

/-- A well-formed status row has a payload. -/
theorem statusWf_length {c : Config} {m : Bytes} {ok : Byte → Bool} (h : statusWf c m ok = true) : 1 ≤ m.length := by
  simp only [statusWf, Bool.and_eq_true, decide_eq_true_eq] at h
  exact h.1

theorem reset : Statement .reset := by intro c f _ h; simp [encode] at h
theorem rxByte (b : Byte) : Statement (.rxByte b) := by intro c f _ h; simp [encode] at h
theorem nop : Statement .nop := by intro c f _ h; simp [encode, cmdOp] at h
theorem actStop : Statement .actStop := by intro c f _ h; simp [encode, cmdOp] at h
theorem actSetpos (p : Rat) : Statement (.actSetpos p) := by intro c f _ h; simp [encode] at h
theorem poll : Statement .poll := by intro c f _ h; simp [encode, cmdOp] at h
theorem pollPos : Statement .pollPos := by intro c f _ h; simp [encode, cmdOp] at h
theorem reserved101 : Statement .reserved101 := by intro c f _ h; simp [encode, cmdOp] at h
theorem reserved110 : Statement .reserved110 := by intro c f _ h; simp [encode, cmdOp] at h
theorem reserved111 : Statement .reserved111 := by intro c f _ h; simp [encode, cmdOp] at h
theorem crcStep (c : Word16) (b : Byte) : Statement (.crcStep c b) := by intro c f _ h; simp [Sys2Proof.encode] at h
theorem checksum (s : Bytes) : Statement (.checksum s) := by intro c f _ h; simp [Sys2Proof.encode] at h
theorem validate (s : Bytes) : Statement (.validate s) := by intro c f _ h; simp [Sys2Proof.encode] at h
theorem encode (a0 a1 k : Byte) (m : Bytes) : Statement (.encode a0 a1 k m) := by
  intro c f _ h; simp [Sys2Proof.encode] at h
theorem txFrame (k : Byte) (m : Bytes) : Statement (.txFrame k m) := by intro c f _ h; simp [Sys2Proof.encode] at h
theorem dispatch (f : Bytes) : Statement (.dispatch f) := by intro c g _ h; simp [Sys2Proof.encode] at h

theorem cStop : Statement .cStop :=
  of_ownFrame (k := (·.classControl)) (m := payloadStop)
    (by intro c f h; simpa [Sys2Proof.encode, eq_comm] using h) (fun _ => .inl rfl) (fun _ _ => by simp [payloadStop])

theorem cOpen : Statement .cOpen :=
  of_ownFrame (k := (·.classControl)) (m := payloadOpen)
    (by intro c f h; simpa [Sys2Proof.encode, eq_comm] using h) (fun _ => .inl rfl) (fun _ _ => by simp [payloadOpen])

theorem cClose : Statement .cClose :=
  of_ownFrame (k := (·.classControl)) (m := payloadClose)
    (by intro c f h; simpa [Sys2Proof.encode, eq_comm] using h) (fun _ => .inl rfl) (fun _ _ => by simp [payloadClose])

theorem cSetpos (t : Byte) : Statement (.cSetpos t) :=
  of_ownFrame (k := (·.classControl)) (m := fun c => payloadSetpos c t)
    (by intro c f h; simpa [Sys2Proof.encode, eq_comm] using h) (fun _ => .inl rfl) (fun _ _ => by simp [payloadSetpos])

theorem qPos : Statement .qPos :=
  of_ownFrame (k := (·.classRead)) (m := fun c => payloadPoll c .getPosition)
    (by intro c f h; simpa [Sys2Proof.encode, eq_comm] using h) (fun _ => .inr rfl) (fun _ _ => by simp [payloadPoll])

theorem qStat : Statement .qStat :=
  of_ownFrame (k := (·.classRead)) (m := fun c => payloadPoll c .getStatus)
    (by intro c f h; simpa [Sys2Proof.encode, eq_comm] using h) (fun _ => .inr rfl) (fun _ _ => by simp [payloadPoll])

theorem rStop (rest : Bytes) : Statement (.rStop rest) :=
  of_ownFrame (k := (·.classControl)) (m := fun c => c.subStop :: rest)
    (by intro c f h; simpa [Sys2Proof.encode, eq_comm] using h) (fun _ => .inl rfl) (fun _ _ => by simp)

theorem rOpen (rest : Bytes) : Statement (.rOpen rest) :=
  of_ownFrame (k := (·.classControl)) (m := fun c => c.subOpen :: rest)
    (by intro c f h; simpa [Sys2Proof.encode, eq_comm] using h) (fun _ => .inl rfl) (fun _ _ => by simp)

theorem rClose (rest : Bytes) : Statement (.rClose rest) :=
  of_ownFrame (k := (·.classControl)) (m := fun c => c.subClose :: rest)
    (by intro c f h; simpa [Sys2Proof.encode, eq_comm] using h) (fun _ => .inl rfl) (fun _ _ => by simp)

theorem rSetpos (rest : Bytes) : Statement (.rSetpos rest) :=
  of_ownFrame (k := (·.classControl)) (m := fun c => c.subSetPosition :: rest)
    (by intro c f h; simpa [Sys2Proof.encode, eq_comm] using h) (fun _ => .inl rfl) (fun _ _ => by simp)

theorem rBad (x : Byte) (rest : Bytes) : Statement (.rBad x rest) :=
  of_ownFrame (k := (·.classControl)) (m := fun _ => x :: rest)
    (by intro c f h; simpa [Sys2Proof.encode, eq_comm] using h) (fun _ => .inl rfl) (fun _ _ => by simp)

theorem sPos (m : Bytes) : Statement (.sPos m) :=
  of_ownFrame (k := (·.classRead)) (m := fun _ => m)
    (by intro c f h; simpa [Sys2Proof.encode, eq_comm] using h) (fun _ => .inr rfl) (fun _ h => statusWf_length h)

theorem sStat (m : Bytes) : Statement (.sStat m) :=
  of_ownFrame (k := (·.classRead)) (m := fun _ => m)
    (by intro c f h; simpa [Sys2Proof.encode, eq_comm] using h) (fun _ => .inr rfl) (fun _ h => statusWf_length h)

theorem sBad (m : Bytes) : Statement (.sBad m) :=
  of_ownFrame (k := (·.classRead)) (m := fun _ => m)
    (by intro c f h; simpa [Sys2Proof.encode, eq_comm] using h) (fun _ => .inr rfl) (fun _ h => statusWf_length h)

end Sys2Proof.Laws.WireFrame
end

