-- ==== Sys2Proof/Tests/Slice0.lean ====
section
/-! SUPPORT. Tests of the model: ill-formed terms, decodings written out from the spec, one small step per instruction
with the results of 95_test_vectors, and a witness for the hypotheses of each statement. Vectors with concrete frame
bytes are under `REFCFG`, `ADDR = (01, 02)`. -/

set_option Elab.async false

namespace Sys2Proof.Tests

open Sys2Proof Sys2Proof.Machine

/-- The start state of the vectors: `REFCFG`, `KIND = GP`, `OP = Idle`, `POS = 1/2`, `READY = 1`. -/
def ref : State := State.resetOf Config.ref

/-- A state with the bytes `f` in its buffer. -/
def holding (f : Bytes) : State := { ref with rxbuf := memOfBytes f }

/-- The next state of an outcome, if it has one. -/
def next? : Outcome → Option State
  | .next s => some s
  | _       => none

/-- The refusal of an outcome, if it is one. -/
def refusal? : Outcome → Option Refusal
  | .refused r => some r
  | _          => none

/-- The instruction a decoder read, if it did. -/
def read? : Except DecodeError Instr → Option Instr
  | .ok i => some i
  | _     => none

/-- The error a decoder named, if it did. -/
def error? : Except DecodeError Instr → Option DecodeError
  | .error e => some e
  | _        => none

/-! ### Configurations and well-formed terms -/

theorem test_ref_valid : Config.ref.valid = true := by decide +kernel

theorem test_invalid_configurations :
    [{ Config.ref with classRead := 0x03 }, { Config.ref with subOpen := 0x02 },
      { Config.ref with kindGetStatus := 0x02 }, { Config.ref with statusValueOffset := 3 },
      { Config.ref with rxbufCap := some 6 }, { Config.ref with posInit := 3 / 2 },
      { Config.ref with posInit := -1 / 2 }].all (fun c => !c.valid) = true := by decide +kernel

/-- One ill-formed term for each check of `Instr.wf`. -/
theorem test_ill_formed_terms_refused :
    [.actSetpos (3 / 2), .actSetpos (-1 / 10),
      .dispatch [0x55, 0x01, 0x02, 0x03, 0x01, 0x49],
      .dispatch [0x54, 0x01, 0x02, 0x03, 0x02, 0x09, 0x01], .dispatch [0x55, 0x02, 0x02, 0x03, 0x02, 0x09, 0x01],
      .dispatch [0x55, 0x01, 0x03, 0x03, 0x02, 0x09, 0x01], .dispatch [0x55, 0x01, 0x02, 0x02, 0x01, 0x48, 0x90],
      .dispatch [0x55, 0x01, 0x02, 0x03, 0x02, 0x09, 0x00],
      .cSetpos 101, .rBad 0x04 [], .sPos [], .sPos [0x01, 101], .sPos [0x01, 254], .sStat [0x01, 3],
      .sBad [0x01, 2]].all (fun i => !Instr.wf Config.ref i) = true := by decide +kernel

/-- A status row whose frame has no byte at the offset. -/
theorem test_missing_value_byte_ill_formed :
    Instr.wf { Config.ref with statusValueOffset := 9 } (.sPos [0x01, 0x32]) = false := by decide +kernel

theorem test_well_formed_terms :
    [.actSetpos 0, .actSetpos 1, .dispatch [0x55, 0x01, 0x02, 0x03, 0x02, 0x09, 0x01], .cSetpos 100, .rBad 0x09 [],
      .sPos [0x01, 100], .sPos [0x01, 0xFF], .sStat [0x01, 2], .sBad [0x01, 3]].all (Instr.wf Config.ref)
      = true := by decide +kernel

/-! ### Decoding: words written out from 30_encoding R82 and frames from 95_test_vectors V13 to V20 -/

theorem test_decode_ports :
    [0b000, 0b001, 0b010, 0b011, 0b100, 0b101, 0b110, 0b111].map (fun op => decodePort (.cmd { op := op, p := 1 / 3 }))
      = [.nop, .actStop, .actSetpos (1 / 3), .poll, .pollPos, .reserved101, .reserved110, .reserved111]
    ∧ decodePort .reset = .reset ∧ decodePort (.rx 0x55) = .rxByte 0x55 := by decide +kernel

theorem test_decode_sent :
    [[0x55, 0x01, 0x02, 0x03, 0x03, 0xC8, 0xC1], [0x55, 0x01, 0x02, 0x03, 0x01, 0x49, 0x00],
      [0x55, 0x01, 0x02, 0x03, 0x02, 0x09, 0x01], [0x55, 0x01, 0x02, 0x03, 0x04, 0x64, 0xC3, 0x4D],
      [0x55, 0x01, 0x02, 0x01, 0x02, 0x01, 0xA1, 0x06], [0x55, 0x01, 0x02, 0x01, 0x05, 0x01, 0xA3, 0x36]].map
        (fun f => read? (decodeSent Config.ref f))
      = [some .cStop, some .cOpen, some .cClose, some (.cSetpos 100), some .qPos, some .qStat] := by decide +kernel

theorem test_decode_responses :
    [[0x55, 0x01, 0x02, 0x03, 0x03, 0xC8, 0xC1], [0x55, 0x01, 0x02, 0x03, 0x01, 0x49, 0x00],
      [0x55, 0x01, 0x02, 0x03, 0x02, 0x09, 0x01], [0x55, 0x01, 0x02, 0x03, 0x04, 0x50, 0xC2, 0x9A],
      [0x55, 0x01, 0x02, 0x03, 0x04, 0x89, 0x03], [0x55, 0x01, 0x02, 0x03, 0x09, 0x48, 0xC6]].map
        (fun f => read? (decodeReceived Config.ref .getPosition f))
      = [some (.rStop []), some (.rOpen []), some (.rClose []), some (.rSetpos [0x50]), some (.rSetpos []),
        some (.rBad 0x09 [])] := by decide +kernel

/-- The same status bytes under both kinds (30_encoding R76). -/
theorem test_decode_status :
    [[0x55, 0x01, 0x02, 0x01, 0x01, 0x01, 0xA1, 0xF6], [0x55, 0x01, 0x02, 0x01, 0x01, 0x03, 0x20, 0x37]].map
        (fun f => (read? (decodeReceived Config.ref .getPosition f), read? (decodeReceived Config.ref .getStatus f)))
      = [(some (.sPos [0x01, 0x01]), some (.sStat [0x01, 0x01])), (some (.sPos [0x01, 0x03]), some (.sBad [0x01, 0x03]))]
    := by decide +kernel

/-- Each rejection by name; the frames V16, V19 and one byte off V13. -/
theorem test_decode_rejects_by_name :
    [[0x55, 0x01, 0x02, 0x03, 0x01, 0x49], [0x54, 0x01, 0x02, 0x03, 0x03, 0xC8, 0xC1],
      [0x55, 0x00, 0x02, 0x03, 0x03, 0xC8, 0xC1], [0x55, 0x01, 0x00, 0x03, 0x03, 0xC8, 0xC1],
      [0x55, 0x01, 0x02, 0x02, 0x01, 0x48, 0x90], [0x55, 0x01, 0x02, 0x03, 0x03, 0xC8, 0xC0],
      [0x55, 0x01, 0x02, 0x03, 0x09, 0x48, 0xC6]].map (fun f => error? (decodeSent Config.ref f))
      = [some .frameTooShort, some .badStart, some .badAddress0, some .badAddress1, some .badClass, some .badChecksum,
        some .neverSent] := by decide +kernel

/-- The encoder against the same frames. -/
theorem test_encode_frames :
    encode Config.ref .cStop = some (.sent [0x55, 0x01, 0x02, 0x03, 0x03, 0xC8, 0xC1])
    ∧ encode Config.ref (.rSetpos []) = some (.received [0x55, 0x01, 0x02, 0x03, 0x04, 0x89, 0x03])
    ∧ encode Config.ref (.sPos [0x01, 0xFF]) = some (.received [0x55, 0x01, 0x02, 0x01, 0x01, 0xFF, 0x20, 0x76])
    := by decide +kernel

theorem test_table_words :
    [0, 1, 2, 3, 4, 5, 6, 7].map (decodeTableWord 8)
      = [some .nop, some .actStop, some (.actSetpos 0), some .poll, some .pollPos, some .reserved101,
        some .reserved110, some .reserved111]
    ∧ decodeTableWord 56 0 = none := by decide +kernel

/-- A step from reset with a table word offered runs that word's row. -/
theorem test_step_runs_table_word :
    step (State.reset.withFetchWord 8 1) = exec .actStop State.reset
    ∧ step (State.reset.withFetchWord 8 4) = exec .pollPos State.reset
    ∧ step (State.reset.withFetchWord 8 7) = exec .reserved111 State.reset := ⟨rfl, rfl, rfl⟩

/-- From reset nothing is offered and the block idles. -/
theorem test_reset_idles : step State.reset = .next State.reset := rfl

/-! ### The CRC unit and the serializer: V1 to V19 -/

theorem test_crc_vectors :
    checksum [0x55, 0x01, 0x02, 0x03] = 0x4901 ∧ crcStep 0x4901 0x02 = 0x0109
    ∧ checksum [0x55, 0x01, 0x02, 0x03, 0x04, 0x32, 0x43] = 0x0073
    ∧ checksum [0x00, 0x00] = 0xB001 := by decide +kernel

/-- V11. -/
theorem test_validate_vectors :
    [[0xFF, 0xFF], [0x00, 0x00], [0x55, 0x01, 0x02, 0x03, 0x02, 0x09, 0x01], [0x55, 0x01, 0x02, 0x03, 0x02, 0x09, 0x00],
      [0x55, 0x01, 0x02, 0x03, 0x02, 0x01, 0x09], [], [0xAB]].map validate
      = [true, false, true, false, false, false, false] := by decide +kernel

/-- V16, V17, V18, V19. -/
theorem test_encode_vectors :
    encodeFrame Config.ref 0x01 0x02 0x03 [] = [0x55, 0x01, 0x02, 0x03, 0x01, 0x49]
    ∧ encodeFrame Config.ref 0x01 0x02 0x03 [0x04, 0x32, 0xAA, 0xBB]
      = [0x55, 0x01, 0x02, 0x03, 0x04, 0x32, 0xAA, 0xBB, 0x4E, 0x06]
    ∧ encodeFrame Config.ref 0x12 0x34 0x03 [0x04, 0x4B] = [0x55, 0x12, 0x34, 0x03, 0x04, 0x4B, 0x08, 0xDA]
    ∧ encodeFrame Config.ref 0x01 0x02 0x7E [] = [0x55, 0x01, 0x02, 0x7E, 0xC1, 0x68] := by decide +kernel

theorem test_function_rows_return :
    ((next? (exec (.crcStep 0xFFFF 0x55) ref)).bind (·.ret)) = some (.word 0x7F7F)
    ∧ ((next? (exec (.checksum [0x01]) ref)).bind (·.ret)) = some (.word 0x807E)
    ∧ ((next? (exec (.validate [0xFF, 0xFF]) ref)).bind (·.ret)) = some (.truth true)
    ∧ ((next? (exec (.encode 0x01 0x02 0x01 []) ref)).bind (·.ret))
      = some (.frame [0x55, 0x01, 0x02, 0x01, 0x80, 0x88]) := by decide +kernel

/-! ### The command encoder: V21, V36 to V43 -/

/-- What an operation emits from `POS = pos`, and `READY` after it. -/
def sends (i : Instr) (pos : Rat) : Option (List OutEvent × Bool) :=
  (next? (exec i { ref with pos := pos })).map (fun t => (t.trace, t.ready))

theorem test_tx_frame :
    sends (.txFrame 0x03 [0x03]) 0 = some ([.tx [0x55, 0x01, 0x02, 0x03, 0x03, 0xC8, 0xC1]], false)
    ∧ sends .actStop 1 = some ([.tx [0x55, 0x01, 0x02, 0x03, 0x03, 0xC8, 0xC1]], false) := by decide +kernel

theorem test_sent_frame_rows :
    sends .cStop 0 = some ([.tx [0x55, 0x01, 0x02, 0x03, 0x03, 0xC8, 0xC1]], false)
    ∧ sends .cOpen 0 = some ([.tx [0x55, 0x01, 0x02, 0x03, 0x01, 0x49, 0x00]], false)
    ∧ sends .cClose 0 = some ([.tx [0x55, 0x01, 0x02, 0x03, 0x02, 0x09, 0x01]], false)
    ∧ sends (.cSetpos 0x25) 0 = some ([.tx [0x55, 0x01, 0x02, 0x03, 0x04, 0x25, 0x03, 0x7D]], false)
    ∧ sends .qPos 0 = some ([.tx [0x55, 0x01, 0x02, 0x01, 0x02, 0x01, 0xA1, 0x06]], false)
    ∧ sends .qStat 0 = some ([.tx [0x55, 0x01, 0x02, 0x01, 0x05, 0x01, 0xA3, 0x36]], false) := by decide +kernel

/-- V36, V37, V39: the guard, open, close, and moves that round to 100 and to 0. -/
theorem test_setpos_vectors :
    sends (.actSetpos (1 / 2)) (1 / 2) = some ([], true)
    ∧ sends (.actSetpos 1) (1 / 2) = some ([.tx [0x55, 0x01, 0x02, 0x03, 0x01, 0x49, 0x00]], false)
    ∧ sends (.actSetpos 0) (1 / 2) = some ([.tx [0x55, 0x01, 0x02, 0x03, 0x02, 0x09, 0x01]], false)
    ∧ sends (.actSetpos (999 / 1000)) 1 = some ([.tx [0x55, 0x01, 0x02, 0x03, 0x04, 0x64, 0xC3, 0x4D]], false)
    ∧ sends (.actSetpos (1 / 1000)) 0 = some ([.tx [0x55, 0x01, 0x02, 0x03, 0x04, 0x00, 0xC2, 0xA6]], false)
    := by decide +kernel

/-- V38: the target bytes. -/
theorem test_target_bytes :
    [37 / 100, 8 / 10, 2 / 10, 1 / 3, 2 / 3, 125 / 1000, 505 / 1000, 495 / 1000, 4 / 1000, 5 / 1000, 995 / 1000].map
      targetByte = [37, 80, 20, 33, 67, 13, 51, 50, 0, 1, 100] := by decide +kernel

/-- V43. -/
theorem test_setpos_refused :
    refusal? (exec (.actSetpos (3 / 2)) ref) = some .positionOutOfRange
    ∧ refusal? (exec (.actSetpos (-1 / 10)) ref) = some .positionOutOfRange := by decide +kernel

/-- V41. -/
theorem test_polls :
    (next? (exec .poll ref)).map (fun t => (t.kind, t.trace))
      = some (.getPosition, [.tx [0x55, 0x01, 0x02, 0x01, 0x02, 0x01, 0xA1, 0x06]])
    ∧ (next? (exec .poll { ref with kind := .getStatus })).map (fun t => (t.kind, t.trace))
      = some (.getStatus, [.tx [0x55, 0x01, 0x02, 0x01, 0x05, 0x01, 0xA3, 0x36]])
    ∧ (next? (exec .pollPos { ref with kind := .getStatus })).map (fun t => (t.kind, t.trace))
      = some (.getPosition, [.tx [0x55, 0x01, 0x02, 0x01, 0x02, 0x01, 0xA1, 0x06]]) := by decide +kernel

/-! ### The interpreter: V44 to V58 -/

/-- What the vectors of the interpreter list. -/
structure Seen where
  op    : OpState
  pos   : Rat
  kind  : ReqKind
  ready : Bool
  trace : List OutEvent
  deriving DecidableEq, Repr

/-- What is seen after an instruction run from `READY = 0`. -/
def after (i : Instr) (kind : ReqKind) (op : OpState) (pos : Rat) : Option Seen :=
  (next? (exec i { ref with kind := kind, op := op, pos := pos, ready := false })).map
    (fun t => ⟨t.op, t.pos, t.kind, t.ready, t.trace⟩)

/-- V44. -/
theorem test_responses :
    after (.dispatch [0x55, 0x01, 0x02, 0x03, 0x03, 0xC8, 0xC1]) .getPosition .closing (1 / 2)
      = some ⟨.idle, 1 / 2, .getPosition, true, [.publish .idle (1 / 2)]⟩
    ∧ after (.rStop []) .getPosition .closing (1 / 2)
      = some ⟨.idle, 1 / 2, .getPosition, true, [.publish .idle (1 / 2)]⟩
    ∧ after (.rOpen []) .getPosition .idle (1 / 2)
      = some ⟨.opening, 1 / 2, .getPosition, true, [.publish .opening (1 / 2)]⟩
    ∧ after (.rClose []) .getPosition .idle (1 / 2)
      = some ⟨.closing, 1 / 2, .getPosition, true, [.publish .closing (1 / 2)]⟩ := by decide +kernel

/-- V45 and V46: above, below and equal to the position, and the 7-byte frame. -/
theorem test_setpos_responses :
    (after (.rSetpos [80]) .getPosition .idle (1 / 2)).map Seen.op = some .opening
    ∧ (after (.rSetpos [20]) .getPosition .idle (1 / 2)).map Seen.op = some .closing
    ∧ (after (.rSetpos [50]) .getPosition .idle (1 / 2)).map Seen.op = some .closing
    ∧ (after (.rSetpos [29]) .getPosition .idle (29 / 100)).map Seen.op = some .closing
    ∧ (after (.rSetpos []) .getPosition .idle 1).map Seen.op = some .opening := by decide +kernel

/-- V55. -/
theorem test_malformed_response :
    after (.rBad 0x09 []) .getPosition .opening (1 / 2)
      = some ⟨.opening, 1 / 2, .getPosition, false, [.diag .malformedResponse]⟩ := by decide +kernel

/-- V47, V48, V49: the percentage path, the sentinel path, and no publication without a change. -/
theorem test_position_status :
    after (.sPos [0x01, 0x32]) .getPosition .idle 0 = some ⟨.idle, 1 / 2, .getStatus, true, [.publish .idle (1 / 2)]⟩
    ∧ after (.sPos [0x01, 0xFF]) .getPosition .idle (3 / 10)
      = some ⟨.idle, 1 / 2, .getStatus, true, [.publish .idle (1 / 2)]⟩
    ∧ after (.sPos [0x01, 0xFF]) .getPosition .idle (1 / 2) = some ⟨.idle, 1 / 2, .getStatus, true, []⟩
    := by decide +kernel

/-- V51, V53, V54. -/
theorem test_operation_status :
    after (.sStat [0x01, 0x00]) .getStatus .closing (1 / 2) = some ⟨.idle, 1 / 2, .getStatus, true, []⟩
    ∧ after (.sStat [0x01, 0x02]) .getStatus .closing (1 / 2) = some ⟨.closing, 1 / 2, .getStatus, true, []⟩
    ∧ after (.sBad [0x01, 0x03]) .getStatus .closing (1 / 2)
      = some ⟨.closing, 1 / 2, .getStatus, false, [.diag .malformedStatus]⟩ := by decide +kernel

/-- V56: the refused position values. -/
theorem test_position_value_refused :
    [101, 150, 254].map (fun v => refusal? (exec (.sPos [0x01, v]) ref))
      = [some (.positionValueUndefined 101), some (.positionValueUndefined 150), some (.positionValueUndefined 254)]
    := by decide +kernel

/-! ### The receive assembler: V22 to V35 -/

/-- The buffer and the trace after one byte. -/
def rx (s : State) (b : Byte) : Option (Bytes × List OutEvent) :=
  (next? (exec (.rxByte b) s)).map (fun t => (t.rxBytes, t.trace))

/-- V26: each header check, and the byte that passes it. -/
theorem test_header_bytes :
    rx ref 0x00 = some ([], []) ∧ rx ref 0x55 = some ([0x55], [])
    ∧ rx (holding [0x55]) 0x55 = some ([], []) ∧ rx (holding [0x55]) 0x01 = some ([0x55, 0x01], [])
    ∧ rx (holding [0x55, 0x01]) 0x09 = some ([], [])
    ∧ rx (holding [0x55, 0x01, 0x02]) 0x02 = some ([], [])
    ∧ rx (holding [0x55, 0x01, 0x02]) 0x01 = some ([0x55, 0x01, 0x02, 0x01], []) := by decide +kernel

/-- V22, V28, V34: completion at the seventh byte, checksum pending, nothing tested at six bytes. -/
theorem test_accumulation :
    rx (holding [0x55, 0x01, 0x02, 0x03, 0x02, 0x09]) 0x01 = some ([], [.publish .closing (1 / 2)])
    ∧ rx (holding [0x55, 0x01, 0x02, 0x03, 0x04, 0x32]) 0x43
      = some ([0x55, 0x01, 0x02, 0x03, 0x04, 0x32, 0x43], [])
    ∧ rx (holding [0x55, 0x01, 0x02, 0x03, 0x01]) 0x49 = some ([0x55, 0x01, 0x02, 0x03, 0x01, 0x49], [])
    := by decide +kernel

/-- V31: at the capacity any byte is a full reset. -/
theorem test_capacity :
    rx { holding [0x55, 0x01, 0x02, 0x03, 0x04, 0x32, 0x43] with cfg := { Config.ref with rxbufCap := some 7 } } 0x73
      = some ([], []) := by decide +kernel

/-- V35: reset in mid-frame. -/
theorem test_reset_mid_frame :
    (next? (exec .reset { holding [0x55, 0x01, 0x02, 0x03, 0x03] with kind := .getStatus, pos := 1, ready := false })).map
      (fun t => (t.rxBytes, t.kind, t.op, t.pos, t.ready)) = some ([], .getPosition, .idle, 1 / 2, true)
    := by decide +kernel

theorem test_nop_changes_nothing :
    next? (exec .nop ref) = some ref ∧ next? (exec .reserved101 ref) = some ref
    ∧ next? (exec .reserved110 ref) = some ref ∧ next? (exec .reserved111 ref) = some ref := by decide +kernel

/-! ### Witnesses: states and operands that meet the hypotheses of the statements -/

/-- A completed close frame, the operand of the witnesses below. -/
def closeFrame : Bytes := [0x55, 0x01, 0x02, 0x03, 0x02, 0x09, 0x01]

theorem witness_DecodeOfEncodeIsTheInstruction :
    Config.ref.valid = true ∧ (Instr.sStat [0x01, 2]).wf Config.ref = true
    ∧ readUnder .getStatus (.sStat [0x01, 2]) = true
    ∧ encode Config.ref (.sStat [0x01, 2]) = some (.received [0x55, 0x01, 0x02, 0x01, 0x01, 0x02, 0xE1, 0xF7])
    := by decide +kernel

theorem witness_WireFramesHaveOneMeaning :
    read? (decodeSent Config.ref closeFrame) = some .cClose
    ∧ read? (decodeReceived Config.ref .getStatus closeFrame) = some (.rClose [])
    ∧ completedFrame Config.ref closeFrame = true := by decide +kernel

theorem witness_ResidueLaw : 2 ≤ ([0xFF, 0xFF] : Bytes).length ∧ validate [0xFF, 0xFF] = true := by decide +kernel

theorem witness_SingleByteErrorIsDetected :
    (0x02 : Byte) ≠ 0x03 ∧ validate ([0x55, 0x01, 0x02, 0x03] ++ 0x02 :: [0x09, 0x01]) = true := by decide +kernel

theorem witness_ValidateOfFewerThanTwoBytesIsFalse : ([0xAB] : Bytes).length < 2 := by decide

theorem witness_ZeroRunsNeverValidate : 2 ≤ 2 := by decide

theorem witness_EncodeLayoutAndInjectivity :
    encodeFrame Config.ref 1 2 3 [4] = encodeFrame Config.ref 1 2 3 [4] := rfl

theorem witness_ActSetposGuardChangesNothing :
    (0 : Rat) ≤ 1 / 2 ∧ (1 / 2 : Rat) ≤ 1 ∧ (1 / 2 : Rat) = ref.pos := by decide +kernel

theorem witness_ActSetposGuardChangesNothing_at_the_ends :
    (0 : Rat) = ({ ref with pos := 0 } : State).pos ∧ (1 : Rat) = ({ ref with pos := 1 } : State).pos := by decide +kernel

theorem witness_ActSetposOpensAndCloses : ref.pos ≠ 1 ∧ ref.pos ≠ 0 := by decide +kernel

theorem witness_ActSetposMovesToTheNearestPercent :
    (0 : Rat) < 1 / 1000 ∧ (1 / 1000 : Rat) < 1 ∧ (1 / 1000 : Rat) ≠ ref.pos := by decide +kernel

theorem witness_ActSetposOutOfRangeIsRefused : (-1 / 10 : Rat) < 0 ∧ 1 < (11 / 10 : Rat) := by decide +kernel

theorem witness_PollAsksForTheCurrentKind :
    ref.kind = .getPosition ∧ ({ ref with kind := .getStatus } : State).kind = .getStatus := by decide +kernel

theorem witness_SendingOperationsFrame :
    sendsOnly (.actSetpos 0) = true ∧ (next? (exec (.actSetpos 0) ref)).isSome = true
    ∧ sendsOnly .pollPos = true ∧ (next? (exec .pollPos ref)).isSome = true := by decide +kernel

theorem witness_SetposResponseJudgesTheDirection :
    (80 : Byte) = ([80] : Bytes).headD (lo8 (checksum
      [ref.cfg.startMarker, ref.cfg.addr0, ref.cfg.addr1, ref.cfg.classControl, ref.cfg.subSetPosition]))
    ∧ (((80 : Byte).toNat : Rat) > ref.pos * 100) ∧ (((50 : Byte).toNat : Rat) ≤ ref.pos * 100)
    ∧ (0x89 : Byte) = ([] : Bytes).headD (lo8 (checksum
      [ref.cfg.startMarker, ref.cfg.addr0, ref.cfg.addr1, ref.cfg.classControl, ref.cfg.subSetPosition]))
    := by decide +kernel

/-- Each sub-command of a frame of class `CONTROL`, the byte that is none, and both directions. -/
theorem witness_DispatchOfResponses :
    ref.cfg.valid = true ∧ closeFrame[3]? = some ref.cfg.classControl
    ∧ closeFrame[4]? = some ref.cfg.subClose
    ∧ ([0x55, 0x01, 0x02, 0x03, 0x03, 0xC8, 0xC1] : Bytes)[4]? = some ref.cfg.subStop
    ∧ ([0x55, 0x01, 0x02, 0x03, 0x01, 0x49, 0x00] : Bytes)[4]? = some ref.cfg.subOpen
    ∧ ([0x55, 0x01, 0x02, 0x03, 0x04, 0x50, 0xC2, 0x9A] : Bytes)[4]? = some ref.cfg.subSetPosition
    ∧ ([0x55, 0x01, 0x02, 0x03, 0x04, 0x50, 0xC2, 0x9A] : Bytes)[5]? = some 80
    ∧ ((80 : Byte).toNat : Rat) > ref.pos * 100
    ∧ ([0x55, 0x01, 0x02, 0x03, 0x04, 0x32, 0x43, 0x73] : Bytes)[5]? = some 50
    ∧ ((50 : Byte).toNat : Rat) ≤ ref.pos * 100
    ∧ subCommandOf ref.cfg 0x09 = none := by decide +kernel

/-- The boundary values of a position byte: 0, 100, 101, 254, 255, in a state where they change `POS` or not. -/
theorem witness_DispatchOfPositionStatus :
    ref.cfg.valid = true
    ∧ ([0x55, 0x01, 0x02, 0x01, 0x01, 0x64, 0x61, 0xDD] : Bytes)[3]? = some ref.cfg.classRead
    ∧ ([0x55, 0x01, 0x02, 0x01, 0x01, 0x64, 0x61, 0xDD] : Bytes)[ref.cfg.statusValueOffset.toNat]? = some 100
    ∧ ref.kind = .getPosition ∧ (100 : Byte).toNat ≤ 100 ∧ ((100 : Byte).toNat : Rat) / 100 ≠ ref.pos
    ∧ ([0x55, 0x01, 0x02, 0x01, 0x01, 0xFF, 0x20, 0x76] : Bytes)[ref.cfg.statusValueOffset.toNat]? = some 0xFF
    ∧ ref.pos = 1 / 2
    ∧ ([0x55, 0x01, 0x02, 0x01, 0x01, 0x65, 0xA0, 0x1D] : Bytes)[ref.cfg.statusValueOffset.toNat]? = some 101
    ∧ 100 < (101 : Byte).toNat ∧ (254 : Byte) ≠ 0xFF := by decide +kernel

theorem witness_DispatchOfOperationStatus :
    ([0x55, 0x01, 0x02, 0x01, 0x01, 0x02, 0xE1, 0xF7] : Bytes)[ref.cfg.statusValueOffset.toNat]? = some 2
    ∧ ([0x55, 0x01, 0x02, 0x01, 0x01, 0x03, 0x20, 0x37] : Bytes)[ref.cfg.statusValueOffset.toNat]? = some 3
    ∧ 3 ≤ (3 : Byte).toNat ∧ ([0x55, 0x01, 0x02, 0x01, 0x01, 0x03, 0x20, 0x37] : Bytes)[3]? = some ref.cfg.classRead
    ∧ ({ ref with kind := .getStatus } : State).kind = .getStatus := by decide +kernel

theorem witness_StatusRowsComplete :
    ref.cfg.valid = true ∧ statusValue? ref.cfg [0x01, 100] = some 100 ∧ statusValue? ref.cfg [0x01, 2] = some 2
    ∧ statusValue? ref.cfg [0x01, 3] = some 3 := by decide +kernel

theorem witness_MissingValueByteIsRefused :
    ({ Config.ref with statusValueOffset := 8 } : Config).valid = true
    ∧ ({ Config.ref with statusValueOffset := 8 } : Config).statusValueOffset.toNat = 8
    ∧ ([0x55, 0x01, 0x02, 0x01, 0x01, 0x32, 0xE1, 0xE3] : Bytes)[3]? = some ref.cfg.classRead
    ∧ ([0x55, 0x01, 0x02, 0x01, 0x01, 0x32, 0xE1, 0xE3] : Bytes).length ≤ 8 := by decide +kernel

theorem witness_DispatchRunsTheDecodedRow :
    read? (decodeReceived ref.cfg ref.kind closeFrame) = some (.rClose []) := by decide +kernel

theorem witness_InterpreterFrame :
    interprets (.sPos [0x01, 0]) = true ∧ (next? (exec (.sPos [0x01, 0]) ref)).isSome = true
    ∧ interprets (.dispatch closeFrame) = true ∧ (next? (exec (.dispatch closeFrame) ref)).isSome = true
    := by decide +kernel

/-- One state at each checked position, with a byte that passes and one that does not. -/
theorem witness_HeaderBytesAreCheckedOneByOne :
    Room ref ∧ ref.atCount = 0 ∧ (holding [0x55]).atCount = 1 ∧ (holding [0x55, 0x01]).atCount = 2
    ∧ (holding [0x55, 0x01, 0x02]).atCount = 3 ∧ (0x55 : Byte) = ref.cfg.startMarker
    ∧ (0x07 : Byte) ≠ ref.cfg.startMarker ∧ (0x01 : Byte) = ref.cfg.addr0 ∧ (0x07 : Byte) ≠ ref.cfg.addr0
    ∧ (0x02 : Byte) = ref.cfg.addr1 ∧ (0x07 : Byte) ≠ ref.cfg.addr1 ∧ (0x01 : Byte) = ref.cfg.classRead
    ∧ (0x07 : Byte) ≠ ref.cfg.classControl ∧ (0x07 : Byte) ≠ ref.cfg.classRead := by
  unfold Room; decide +kernel

theorem witness_PositionsFourAndFiveTakeAnyByte :
    Room (holding [0x55, 0x01, 0x02, 0x03]) ∧ (holding [0x55, 0x01, 0x02, 0x03]).atCount = 4
    ∧ (holding [0x55, 0x01, 0x02, 0x03, 0x02]).atCount = 5 := by
  unfold Room; decide +kernel

theorem witness_ChecksumPendingKeepsTheBuffer :
    Room (holding [0x55, 0x01, 0x02, 0x03, 0x02, 0x09]) ∧ 6 ≤ (holding [0x55, 0x01, 0x02, 0x03, 0x02, 0x09]).atCount
    ∧ validate ((holding [0x55, 0x01, 0x02, 0x03, 0x02, 0x09]).rxBytes ++ [0x00]) = false := by
  unfold Room; decide +kernel

theorem witness_CompletionDispatchesAndClears :
    Room (holding [0x55, 0x01, 0x02, 0x03, 0x02, 0x09])
    ∧ validate ((holding [0x55, 0x01, 0x02, 0x03, 0x02, 0x09]).rxBytes ++ [0x01]) = true
    ∧ (next? (exec (.dispatch closeFrame) (holding [0x55, 0x01, 0x02, 0x03, 0x02, 0x09]))).isSome = true
    ∧ validate ((holding [0x55, 0x01, 0x02, 0x01, 0x01, 0x65, 0xA0]).rxBytes ++ [0x1D]) = true
    ∧ refusal? (exec (.dispatch [0x55, 0x01, 0x02, 0x01, 0x01, 0x65, 0xA0, 0x1D]) ref)
      = some (.positionValueUndefined 101) := by
  unfold Room; decide +kernel

theorem witness_CapacityForcesAFullReset :
    ({ holding closeFrame with cfg := { Config.ref with rxbufCap := some 7 } } : State).cfg.rxbufCap
      = some ({ holding closeFrame with cfg := { Config.ref with rxbufCap := some 7 } } : State).atCount
    := by decide +kernel

theorem witness_RxByteFrame :
    MemoryInv (holding [0x55, 0x01]) ∧ (next? (exec (.rxByte 0x02) (holding [0x55, 0x01]))).isSome = true
    ∧ (holding [0x55, 0x01]).atCount < 6 := by
  unfold MemoryInv; decide +kernel

/-- A 7-byte frame has no proper prefix of seven bytes. -/
theorem noEarlyEnd_of_seven {f : Bytes} (h : f.length = 7) : NoEarlyEnd f := by
  intro n h1 h2
  have : (7 : Nat) ≤ n := h1
  omega

theorem witness_ResynchronisationAfterNoise :
    ref.rxbuf = [] ∧ (∀ w ∈ ([0x00, 0x07, 0xFF] : Bytes), w ≠ ref.cfg.startMarker)
    ∧ (0x03 : Byte) = ref.cfg.classControl ∧ 1 ≤ ([0x03] : Bytes).length
    ∧ NoEarlyEnd (encodeFrame ref.cfg ref.cfg.addr0 ref.cfg.addr1 0x03 [0x03]) ∧ Fits ref.cfg 7 :=
  ⟨rfl, by decide +kernel, rfl, by decide, noEarlyEnd_of_seven rfl, fun _ h => by cases h⟩

theorem witness_CloseCommandLoopedBack : ref.cfg.valid = true ∧ ref.rxbuf = [] ∧ ref.pos ≠ 0 := by decide +kernel

/-- V29: the corrupted stop frame, then the first byte of the next. -/
theorem witness_StuckReceiverKeepsEverything :
    6 ≤ (holding [0x55, 0x01, 0x02, 0x03, 0x03, 0xC8, 0xC0]).atCount
    ∧ (holding [0x55, 0x01, 0x02, 0x03, 0x03, 0xC8, 0xC0]).cfg.rxbufCap = none
    ∧ ∀ n, 1 ≤ n → n ≤ ([0x55] : Bytes).length →
      validate ((holding [0x55, 0x01, 0x02, 0x03, 0x03, 0xC8, 0xC0]).rxBytes ++ ([0x55] : Bytes).take n) = false := by
  refine ⟨by decide +kernel, rfl, fun n h1 h2 => ?_⟩
  have : n = 1 := Nat.le_antisymm h2 h1
  subst this
  decide +kernel

/-- A step that goes on from a state that meets every invariant: the first byte of a frame arrives. -/
theorem witness_invariants_kept :
    MemoryInv { ref with rxIn := [0x55] } ∧ HeaderInv { ref with rxIn := [0x55] }
    ∧ PositionInv { ref with rxIn := [0x55] } ∧ CapacityInv { ref with rxIn := [0x55] }
    ∧ (next? (step { ref with rxIn := [0x55] })).map State.rxBytes = some [0x55] :=
  ⟨by unfold MemoryInv; decide +kernel, by unfold HeaderInv; decide +kernel, .inl rfl,
    fun _ h => (by cases h), by decide +kernel⟩

theorem witness_ConfigurationIsImmutable :
    (next? (exec .poll ref)).isSome = true ∧ (next? (step ref)).isSome = true := by decide +kernel

/-- A buffer in which one more byte completes a status frame, value byte 101, meets the invariants. -/
theorem witness_StepRefusesOnlyWhatHasNoMeaning_invariants :
    MemoryInv (holding [0x55, 0x01, 0x02, 0x01, 0x01, 0x65, 0xA0])
    ∧ HeaderInv (holding [0x55, 0x01, 0x02, 0x01, 0x01, 0x65, 0xA0])
    ∧ Completes (holding [0x55, 0x01, 0x02, 0x01, 0x01, 0x65, 0xA0]) 0x1D := by
  unfold MemoryInv HeaderInv Completes Room; decide +kernel

/-- The three refusals, each by a step. -/
theorem witness_StepRefusesOnlyWhatHasNoMeaning :
    refusal? (step { ref with cmdIn := [{ op := 2, p := 2 }] }) = some .positionOutOfRange
    ∧ refusal? (step { holding [0x55, 0x01, 0x02, 0x01, 0x01, 0x65, 0xA0] with rxIn := [0x1D] })
      = some (.positionValueUndefined 101)
    ∧ refusal? (step { holding [0x55, 0x01, 0x02, 0x01, 0x01, 0x32, 0xE1] with
        rxIn := [0xE3], cfg := { Config.ref with statusValueOffset := 8 } }) = some .statusByteAbsent
    := by decide +kernel

theorem witness_KindReturnsOnlyByPollPosOrReset :
    ({ ref with kind := .getStatus } : State).kind = .getStatus
    ∧ (next? (exec .pollPos { ref with kind := .getStatus })).map State.kind = some .getPosition := by decide +kernel

/-- `OP` moves and `READY` is set by a byte that completes a frame. -/
theorem witness_completing_byte :
    Completes (holding [0x55, 0x01, 0x02, 0x03, 0x02, 0x09]) 0x01
    ∧ (next? (exec (.rxByte 0x01) { holding [0x55, 0x01, 0x02, 0x03, 0x02, 0x09] with ready := false })).map
      (fun t => (t.op, t.ready)) = some (.closing, true) ∧ ref.op ≠ .closing := by
  unfold Completes Room; decide +kernel

/-- `POS` moves, and `OP` moves, each by a received frame. -/
theorem witness_TrackedStateChangesOnlyByReceivedFrames :
    (next? (exec (.sPos [0x01, 0]) ref)).map State.pos = some 0 ∧ ref.pos ≠ 0
    ∧ (next? (exec (.rOpen []) ref)).map State.op = some .opening ∧ ref.op ≠ .opening := by decide +kernel

theorem witness_ReadyIsSetByFramesAndClearedBySending :
    (next? (exec (.rStop []) { ref with ready := false })).map State.ready = some true
    ∧ (next? (exec .actStop ref)).map State.ready = some false ∧ ref.ready = true := by decide +kernel

theorem witness_OneOperationEmitsAtMostOneEvent :
    (next? (exec .reset ref)).isSome = true ∧ (next? (exec .poll ref)).isSome = true := by decide +kernel

theorem witness_BlockReadsNeitherReadyNorTrace :
    (next? (exec (.rxByte 0x55) ref)).isSome = true ∧ (next? (exec .poll ref)).isSome = true
    ∧ (next? (exec .reset ref)).isSome = true := by decide +kernel

/-- Each of the three ways in which a byte completes nothing. -/
theorem witness_CommandAndNonCompletingByteCommute :
    sendsOnly .poll = true ∧ (next? (exec .poll ref)).isSome = true ∧ ref.atCount < 6
    ∧ validate ((holding [0x55, 0x01, 0x02, 0x03, 0x02, 0x09]).rxBytes ++ [0x00]) = false
    ∧ ({ holding closeFrame with cfg := { Config.ref with rxbufCap := some 7 } } : State).cfg.rxbufCap
      = some (holding closeFrame).atCount := by decide +kernel

theorem witness_StepRunsTheDecodedEvent :
    (ref.resetReq = false ∧ ref.rxIn = [] ∧ ref.cmdIn = [])
    ∧ (({ ref with rxIn := [0x55] } : State).rxIn = 0x55 :: [])
    ∧ (({ ref with cmdIn := [{ op := 1, p := 0 }] } : State).cmdIn = { op := 1, p := 0 } :: [])
    ∧ ({ ref with resetReq := true } : State).resetReq = true := by decide +kernel

theorem witness_StepTakesOneOfTheEventsOffered :
    ({ ref with rxIn := [0x55], cmdIn := [{ op := 1, p := 0 }] } : State).rxIn ≠ []
    ∧ ({ ref with rxIn := [0x55], cmdIn := [{ op := 1, p := 0 }] } : State).cmdIn ≠ []
    ∧ ({ ref with resetReq := true } : State).resetReq = true := by decide +kernel

end Sys2Proof.Tests
end

section
/-! SUPPORT. The two configurations the model names are valid (10_state R7, R8). -/

namespace Sys2Proof

theorem Config.ref_valid : Config.ref.valid = true := by decide +kernel

/-- Whatever was installed, the machine's configuration meets R7 and R8 (log entry 2). -/
theorem Config.chip_valid : Config.chip.valid = true := by
  unfold Config.chip
  split
  next h => exact h
  next => exact Config.ref_valid

end Sys2Proof
end

section
/-! SUPPORT. The state after reset: with an empty buffer, the invariants that speak of the buffer hold (10_state R25,
R35). -/

namespace Sys2Proof.Machine

variable {s : State}

/-- An empty buffer counts no bytes (10_state R24). -/
theorem atCount_of_rxbuf_nil (h : s.rxbuf = []) : s.atCount = 0 := by simp [State.atCount, h]

theorem memoryInv_of_rxbuf_nil (h : s.rxbuf = []) : MemoryInv s := by
  rw [MemoryInv, h]
  exact Memory.wf_nil

/-- No header byte is stored yet, and fewer than seven bytes are. -/
theorem headerInv_of_rxbuf_nil (h : s.rxbuf = []) : HeaderInv s := by
  have hat := atCount_of_rxbuf_nil h
  refine ⟨?_, ?_, ?_, ?_, .inl ?_⟩ <;> omega

theorem capacityInv_of_rxbuf_nil (h : s.rxbuf = []) : CapacityInv s := by
  intro n _
  rw [atCount_of_rxbuf_nil h]
  exact Nat.zero_le n

/-- The position after reset is `POS_INIT`, one of the values of R29. -/
theorem positionInv_resetOf (c : Config) : PositionInv (State.resetOf c) := .inl rfl

/-- Settles O49: the buffer is empty after reset, `POS` is `POS_INIT`, and the configuration is checked or `REFCFG`. -/
theorem resetMeetsTheInvariants : Obligations.ResetMeetsTheInvariants :=
  ⟨fun c => ⟨memoryInv_of_rxbuf_nil rfl, headerInv_of_rxbuf_nil rfl, positionInv_resetOf c,
    capacityInv_of_rxbuf_nil rfl⟩, rfl, Config.chip_valid⟩

end Sys2Proof.Machine
end

section
/-! SUPPORT. A step where at most one source offers an event: there is nothing to choose, so the step is that of the
one source (20_memory R57, R58). -/

namespace Sys2Proof.Machine

variable {s t : State} {w : PortWord} {src : Source}

theorem step_of_takeEvent_none (h : takeEvent s = none) : step s = .next s := by rw [step, h]

theorem step_of_takeEvent_some (h : takeEvent s = some (w, t)) : step s = exec (decodePort w) t := by rw [step, h]

theorem takeEvent_of_offers_nil (h : offers s = []) : takeEvent s = none := by rw [takeEvent, h, arbitrate]

/-- A single offer is taken without a choice: the count of choices stays (log entry 5). -/
theorem takeEvent_of_offers_singleton (h : offers s = [src]) : takeEvent s = takeFrom s src := by
  rw [takeEvent, h, arbitrate]

/-- Settles O59: each case says which sources offer, and the step is that of the one that does. -/
theorem stepRunsTheDecodedEvent : Obligations.StepRunsTheDecodedEvent := by
  intro s
  refine ⟨fun hreset hrx hcmd => ?_, fun w rest hreset hrx hcmd => ?_, fun b rest hreset hrx hcmd => ?_,
    fun hreset hrx hcmd => ?_⟩
  · have hoff : offers s = [] := by simp [offers, hreset, hrx, hcmd]
    exact step_of_takeEvent_none (takeEvent_of_offers_nil hoff)
  · have hoff : offers s = [.cmdPort] := by simp [offers, hreset, hrx, hcmd]
    exact step_of_takeEvent_some (by simp [takeEvent_of_offers_singleton hoff, takeFrom, hcmd])
  · have hoff : offers s = [.rxPort] := by simp [offers, hreset, hrx, hcmd]
    exact step_of_takeEvent_some (by simp [takeEvent_of_offers_singleton hoff, takeFrom, hrx])
  · have hoff : offers s = [.resetLine] := by simp [offers, hreset, hrx, hcmd]
    exact step_of_takeEvent_some (by simp [takeEvent_of_offers_singleton hoff, takeFrom, hreset])

end Sys2Proof.Machine
end

section
/-! SUPPORT. What each kind of instruction changes, in one case analysis that the whole-machine rules share: `RESET`;
nothing but the buffer and the returned value; a frame sent; a frame interpreted (10_state R36). -/

namespace Sys2Proof.Machine

variable {i : Instr} {s t : State}

/-- Only the registers `OP`, `POS`, `KIND`, `READY` and the trace are the interpreter's to write (44_interpreter
R171). -/
theorem Interpreted.frame (h : Interpreted s t) :
    t.cfg = s.cfg ∧ t.rxbuf = s.rxbuf ∧ t.ret = s.ret ∧ SamePorts s t := by
  obtain ⟨o, rfl⟩ | ⟨-, v, new, -, rfl⟩ | ⟨-, o, rfl⟩ | ⟨k, rfl⟩ := h
  all_goals exact ⟨rfl, rfl, rfl, rfl, rfl, rfl, rfl⟩

/-- Under `GET_STATUS` no position is read (44_interpreter R178, R179). -/
theorem Interpreted.kind_pos_of_getStatus (h : Interpreted s t) (hk : s.kind = .getStatus) :
    t.kind = .getStatus ∧ t.pos = s.pos := by
  obtain ⟨o, rfl⟩ | ⟨hpos, -⟩ | ⟨-, o, rfl⟩ | ⟨k, rfl⟩ := h
  · exact ⟨hk, rfl⟩
  · rw [hk] at hpos; cases hpos
  · exact ⟨hk, rfl⟩
  · exact ⟨hk, rfl⟩

/-- Only a position frame writes `POS`, and it publishes the change (44_interpreter R178, R184). -/
theorem Interpreted.of_pos_ne (h : Interpreted s t) (hp : t.pos ≠ s.pos) :
    s.kind = .getPosition ∧ t.kind = .getStatus ∧ t.op = s.op ∧ t.ready = true
      ∧ t.trace = s.trace ++ [.publish t.op t.pos] := by
  obtain ⟨o, rfl⟩ | ⟨hk, v, new, -, rfl⟩ | ⟨-, o, rfl⟩ | ⟨k, rfl⟩ := h
  · exact absurd rfl hp
  · exact ⟨hk, rfl, rfl, rfl, if_neg hp⟩
  · exact absurd rfl hp
  · exact absurd rfl hp

/-- Only a response or a status code writes `OP` (44_interpreter R172 to R175, R179). -/
theorem Interpreted.of_op_ne (h : Interpreted s t) (ho : t.op ≠ s.op) :
    t.pos = s.pos ∧ t.kind = s.kind ∧ t.ready = true := by
  obtain ⟨o, rfl⟩ | ⟨-, v, new, -, rfl⟩ | ⟨-, o, rfl⟩ | ⟨k, rfl⟩ := h
  · exact ⟨rfl, rfl, rfl⟩
  · exact absurd rfl ho
  · exact ⟨rfl, rfl, rfl⟩
  · exact absurd rfl ho

/-- A well-formed frame sets `READY` and publishes at most the state after; an ill-formed one only raises a diagnostic
(44_interpreter R176, R180, R181). -/
theorem Interpreted.output (h : Interpreted s t) :
    (t.ready = true ∧ (t.trace = s.trace ∨ t.trace = s.trace ++ [.publish t.op t.pos]))
    ∨ (∃ k, t.trace = s.trace ++ [.diag k])
      ∧ t.ready = s.ready ∧ t.op = s.op ∧ t.pos = s.pos ∧ t.kind = s.kind := by
  obtain ⟨o, rfl⟩ | ⟨-, v, new, -, rfl⟩ | ⟨-, o, rfl⟩ | ⟨k, rfl⟩ := h
  · exact .inl ⟨rfl, .inr rfl⟩
  · by_cases hp : new = s.pos
    · exact .inl ⟨rfl, .inl (if_pos hp)⟩
    · exact .inl ⟨rfl, .inr (if_neg hp)⟩
  · exact .inl ⟨rfl, .inl rfl⟩
  · exact .inr ⟨⟨k, rfl⟩, rfl, rfl, rfl, rfl⟩

/-- `i` interprets a frame in `s`: as a row, or as the byte that completes it (42_assembler R138). -/
def ReadsFrame (i : Instr) (s : State) : Prop :=
  interprets i = true ∨ ∃ b, i = .rxByte b ∧ Completes s b

/-- The registers and the trace after an instruction, whatever it does to the buffer. -/
theorem exec_effect (h : exec i s = .next t) :
    (i = .reset ∧ execReset s = .next t)
    ∨ (∃ m v, t = { s with rxbuf := m, ret := v })
    ∨ (sendsOnly i = true ∧ ∃ f, t = { s with
        kind := if i = .pollPos then .getPosition else s.kind
        trace := s.trace ++ [.tx f], ready := false })
    ∨ (ReadsFrame i s ∧ ∃ u m, Interpreted s u ∧ t = { u with rxbuf := m }) := by
  rcases exec_next h with ⟨rfl, -⟩ | ⟨b, rfl, hb⟩ | rfl | ⟨v, rfl, -⟩ | hsend | ⟨hi, ht⟩
  · exact .inl ⟨rfl, h⟩
  · rcases execRxByte_next hb with ⟨rfl, -⟩ | ⟨rfl, -⟩ | ⟨hroom, hat, hv, u, hu, rfl⟩
    · exact .inr (.inl ⟨_, _, rfl⟩)
    · exact .inr (.inl ⟨_, _, rfl⟩)
    · exact .inr (.inr (.inr ⟨.inr ⟨b, rfl, hroom, hat, hv⟩, u, [], execDispatch_next hu, rfl⟩))
  · exact .inr (.inl ⟨_, _, rfl⟩)
  · exact .inr (.inl ⟨_, _, rfl⟩)
  · exact .inr (.inr (.inl hsend))
  · exact .inr (.inr (.inr ⟨.inl hi, t, t.rxbuf, ht, rfl⟩))

/-- No instruction writes the configuration (10_state R26). -/
theorem exec_cfg (h : exec i s = .next t) : t.cfg = s.cfg := by
  rcases exec_effect h with ⟨-, ht⟩ | ⟨m, v, rfl⟩ | ⟨-, f, rfl⟩ | ⟨-, u, m, hu, rfl⟩
  · cases ht; rfl
  · rfl
  · rfl
  · exact hu.frame.1

/-- Taking an event touches nothing but the ports and the count of choices (20_memory R58). -/
theorem takeEvent_frame {w : PortWord} (h : takeEvent s = some (w, t)) :
    ∃ reset rx cmd n, t = { s with resetReq := reset, rxIn := rx, cmdIn := cmd, turn := n } := by
  obtain ⟨n, -, ⟨-, -, rfl⟩ | ⟨b, rest, -, -, rfl⟩ | ⟨c, rest, -, -, rfl⟩⟩ := takeEvent_some h
  all_goals exact ⟨_, _, _, _, rfl⟩

/-- A property that does not speak of the ports and that every instruction keeps is kept by every step. -/
theorem step_keeps {P : State → Prop}
    (hports : ∀ s reset rx cmd n, P s → P { s with resetReq := reset, rxIn := rx, cmdIn := cmd, turn := n })
    (hexec : ∀ i s t, P s → exec i s = .next t → P t) (hs : P s) (h : step s = .next t) : P t := by
  rcases step_next h with rfl | ⟨w, u, hw, hu⟩
  · exact hs
  · obtain ⟨reset, rx, cmd, n, rfl⟩ := takeEvent_frame hw
    exact hexec _ _ _ (hports s reset rx cmd n hs) hu

end Sys2Proof.Machine
end

section
/-! SUPPORT. The header invariant: what an instruction leaves in the buffer, and that the stored header bytes are the
checked ones (10_state R25, 42_assembler R131 to R139). -/

namespace Sys2Proof.Machine

variable {i : Instr} {s t : State} {b : Byte}

/-- The assembler stores the byte `b` in `s`: there is room, a header position holds its expected byte, and the frame is
not complete (42_assembler R131 to R134, R139, R142). -/
def Stores (s : State) (b : Byte) : Prop :=
  Room s ∧ (s.atCount = 0 → b = s.cfg.startMarker) ∧ (s.atCount = 1 → b = s.cfg.addr0)
  ∧ (s.atCount = 2 → b = s.cfg.addr1) ∧ (s.atCount = 3 → b = s.cfg.classControl ∨ b = s.cfg.classRead)
  ∧ (6 ≤ s.atCount → validate (s.rxBytes ++ [b]) = false)

/-- The buffer after an instruction: cleared, as before, or one accepted byte longer (20_memory R51). -/
theorem exec_rxbuf (h : exec i s = .next t) :
    t.rxbuf = [] ∨ t.rxbuf = s.rxbuf ∨ ∃ b, Stores s b ∧ t.rxbuf = memAppend s.rxbuf b := by
  rcases exec_next h with ⟨-, rfl⟩ | ⟨b, -, hb⟩ | rfl | ⟨v, rfl, -⟩ | ⟨-, f, rfl⟩ | ⟨-, ht⟩
  · exact .inl rfl
  · rcases execRxByte_next hb with ⟨rfl, -⟩ | ⟨rfl, hstores⟩ | ⟨-, -, -, u, -, rfl⟩
    · exact .inl rfl
    · exact .inr (.inr ⟨b, hstores, rfl⟩)
    · exact .inl rfl
  · exact .inr (.inl rfl)
  · exact .inr (.inl rfl)
  · exact .inr (.inl rfl)
  · exact .inr (.inl ht.frame.2.1)

theorem exec_keeps_memoryInv (hm : MemoryInv s) (h : exec i s = .next t) : MemoryInv t := by
  rcases exec_rxbuf h with hnil | hsame | ⟨b, -, happ⟩
  · exact memoryInv_of_rxbuf_nil hnil
  · rwa [MemoryInv, hsame]
  · rw [MemoryInv, happ]
    exact Memory.wf_memAppend hm b

/-- A property of the byte at address `a`, wherever one is stored there, survives an append if a byte appended at `a`
has it. -/
theorem memRead_memAppend_of_lt {m : Memory} {P : Option Byte → Prop} {a : Nat} (hm : m.wf = true)
    (hold : a + 1 ≤ m.length → P (memRead m a)) (hnew : m.length = a → P (some b))
    (ha : a + 1 ≤ (memAppend m b).length) : P (memRead (memAppend m b) a) := by
  rw [memAppend_length] at ha
  by_cases hlast : a = m.length
  · subst hlast
    rw [memRead_memAppend_self hm]
    exact hnew rfl
  · rw [memRead_memAppend_other m b hlast]
    exact hold (by omega)

/-- The header invariant speaks of the buffer and the configuration only. -/
theorem headerInv_congr (hbuf : t.rxbuf = s.rxbuf) (hcfg : t.cfg = s.cfg) (h : HeaderInv s) : HeaderInv t := by
  unfold HeaderInv State.atCount State.rxBytes at *
  rwa [hbuf, hcfg]

/-- A stored byte extends the header or leaves it, and completes no frame. -/
theorem headerInv_append (hm : MemoryInv s) (hh : HeaderInv s) (hb : Stores s b) :
    HeaderInv (s.append b) := by
  obtain ⟨h0, h1, h2, h3, hv⟩ := hh
  obtain ⟨-, b0, b1, b2, b3, bv⟩ := hb
  refine ⟨memRead_memAppend_of_lt (P := (· = some s.cfg.startMarker)) hm h0 fun h => congrArg some (b0 h),
    memRead_memAppend_of_lt (P := (· = some s.cfg.addr0)) hm h1 fun h => congrArg some (b1 h),
    memRead_memAppend_of_lt (P := (· = some s.cfg.addr1)) hm h2 fun h => congrArg some (b2 h),
    memRead_memAppend_of_lt (P := fun x => x = some s.cfg.classControl ∨ x = some s.cfg.classRead) hm h3
      fun h => (b3 h).imp (congrArg some) (congrArg some), ?_⟩
  by_cases h6 : 6 ≤ s.atCount
  · right
    rw [← bv h6]
    simp [State.rxBytes]
  · have hat : (s.append b).atCount = s.atCount + 1 := memAppend_length _ _
    left
    omega

theorem exec_keeps_headerInv (hm : MemoryInv s) (hh : HeaderInv s) (h : exec i s = .next t) : HeaderInv t := by
  rcases exec_rxbuf h with hnil | hsame | ⟨b, hb, happ⟩
  · exact headerInv_of_rxbuf_nil hnil
  · exact headerInv_congr hsame (exec_cfg h) hh
  · have hcfg := exec_cfg h
    exact headerInv_congr (s := s.append b) happ hcfg (headerInv_append hm hh hb)

/-- Settles O46: the canonical form of the memory and the header invariant are kept together. -/
theorem everyStepKeepsTheHeader : Obligations.EveryStepKeepsTheHeader := by
  intro s t hm hh h
  have both : MemoryInv t ∧ HeaderInv t :=
    step_keeps (P := fun x => MemoryInv x ∧ HeaderInv x) (fun _ _ _ _ _ hx => hx)
      (fun i x y hx hy => ⟨exec_keeps_memoryInv hx.1 hy, exec_keeps_headerInv hx.1 hx.2 hy⟩) ⟨hm, hh⟩ h
  exact both.2

end Sys2Proof.Machine
end

section
/-! SUPPORT. `POS` stays among the values of R29: only reset and a position frame write it. -/

namespace Sys2Proof.Machine

variable {i : Instr} {s t : State}

/-- The position invariant speaks of `POS` and the configuration only. -/
theorem positionInv_congr (hpos : t.pos = s.pos) (hcfg : t.cfg = s.cfg) (h : PositionInv s) : PositionInv t := by
  unfold PositionInv at *
  rwa [hpos, hcfg]

/-- A position frame writes 1/2 or a percentage (44_interpreter R178). -/
theorem Interpreted.positionInv (h : Interpreted s t) (hp : PositionInv s) : PositionInv t := by
  obtain ⟨o, rfl⟩ | ⟨-, v, new, hv, rfl⟩ | ⟨-, o, rfl⟩ | ⟨k, rfl⟩ := h
  · exact hp
  · rcases positionOfValue_some hv with ⟨-, hnew⟩ | ⟨hle, hnew⟩
    · exact .inr (.inl hnew)
    · exact .inr (.inr ⟨v.toNat, hle, hnew⟩)
  · exact hp
  · exact hp

theorem exec_keeps_positionInv (hp : PositionInv s) (h : exec i s = .next t) : PositionInv t := by
  rcases exec_effect h with ⟨-, ht⟩ | ⟨m, v, rfl⟩ | ⟨-, f, rfl⟩ | ⟨-, u, m, hu, rfl⟩
  · cases ht; exact positionInv_resetOf s.cfg
  · exact hp
  · exact hp
  · exact hu.positionInv hp

/-- Settles O48: every instruction keeps the invariant, and taking an event does not touch `POS`. -/
theorem everyStepKeepsThePosition : Obligations.EveryStepKeepsThePosition := by
  intro s t hp h
  exact step_keeps (fun _ _ _ _ _ hx => hx) (fun _ _ _ hx hy => exec_keeps_positionInv hx hy) hp h

end Sys2Proof.Machine
end

section
/-! SUPPORT. The frames of the three families of instructions, and the rules of the whole machine: each is read off the
case analysis of what an instruction changes (10_state R26 to R36). -/

namespace Sys2Proof.Machine

/-- Settles O24: a sending operation did nothing, or wrote `KIND`, `READY` and the trace. -/
theorem sendingOperationsFrame : Obligations.SendingOperationsFrame := by
  intro i s t hi h
  rcases exec_sendsOnly_next hi h with ⟨rfl, -⟩ | ⟨f, rfl⟩
  · exact ⟨rfl, rfl, rfl, rfl, rfl, fun _ => rfl, ⟨rfl, rfl, rfl, rfl⟩, fun _ => rfl, .inl ⟨rfl, rfl⟩⟩
  · exact ⟨rfl, rfl, rfl, rfl, rfl, fun _ => rfl, ⟨rfl, rfl, rfl, rfl⟩, fun hne => if_neg hne,
      .inr ⟨⟨f, rfl⟩, rfl⟩⟩

/-- Settles O34: the rows run the interpreter, whose cases are known. -/
theorem interpreterFrame : Obligations.InterpreterFrame := by
  intro i s t hi h
  have hint := exec_interprets_next hi h
  obtain ⟨hcfg, hbuf, hret, hports⟩ := hint.frame
  have hat : t.atCount = s.atCount := congrArg List.length hbuf
  have hmem : SameMemory s t := fun a => by rw [hbuf]
  have hop : t.kind ≠ s.kind → t.op = s.op := fun hk => by
    by_contra ho
    exact hk (hint.of_op_ne ho).2.1
  exact ⟨hcfg, hret, hat, hmem, hports, hint.kind_pos_of_getStatus, hop, hint.output⟩

/-- A byte that has no room, is no seventh or later byte, or does not validate the buffer completes no frame. -/
theorem not_completes_iff {s : State} {b : Byte} :
    ¬ Completes s b ↔
      s.atCount < 6 ∨ s.cfg.rxbufCap = some s.atCount ∨ validate (s.rxBytes ++ [b]) = false := by
  unfold Completes Room
  rw [not_and_or, not_and_or, not_not, Nat.not_le, Bool.not_eq_true, or_left_comm]

/-- Settles O40: by what one byte can do; interpreting the completed frame does not touch the buffer, which is then
cleared. -/
theorem rxByteFrame : Obligations.RxByteFrame := by
  intro s t b hm h
  rw [← not_completes_iff]
  rcases execRxByte_next h with ⟨rfl, -⟩ | ⟨rfl, -⟩ | ⟨hroom, hat, hv, u, hu, rfl⟩
  · exact ⟨rfl, rfl, ⟨rfl, rfl, rfl, rfl⟩, .inr ⟨rfl, memRead_nil⟩, fun _ => ⟨rfl, rfl, rfl, rfl, rfl⟩⟩
  · exact ⟨rfl, rfl, ⟨rfl, rfl, rfl, rfl⟩,
      .inl ⟨memAppend_length _ _, fun a ha => memRead_memAppend_other _ b ha, memRead_memAppend_self hm b⟩,
      fun _ => ⟨rfl, rfl, rfl, rfl, rfl⟩⟩
  · obtain ⟨hcfg, -, hret, hports⟩ := (execDispatch_next hu).frame
    exact ⟨hcfg, hret, hports, .inr ⟨rfl, memRead_nil⟩, fun hnot => absurd ⟨hroom, hat, hv⟩ hnot⟩

/-- Settles O50: for a step, the property of having the configuration of `s` is kept. -/
theorem configurationIsImmutable : Obligations.ConfigurationIsImmutable :=
  ⟨fun _ _ _ h => exec_cfg h, fun s _ h =>
    step_keeps (P := fun x => x.cfg = s.cfg) (fun _ _ _ _ _ hx => hx) (fun _ _ _ hx hy => (exec_cfg hy).trans hx)
      rfl h⟩

/-- Settles O53: sending writes `KIND` by `POLL.POS` only, and the interpreter never leaves `GET_STATUS`. -/
theorem kindReturnsOnlyByPollPosOrReset : Obligations.KindReturnsOnlyByPollPosOrReset := by
  intro i s t h hs ht
  have hne : t.kind ≠ s.kind := by simp [hs, ht]
  rcases exec_effect h with ⟨hi, -⟩ | ⟨m, v, rfl⟩ | ⟨-, f, rfl⟩ | ⟨-, u, m, hu, rfl⟩
  · exact .inr hi
  · exact absurd rfl hne
  · by_contra hi
    exact hne (if_neg fun hp => hi (.inl hp))
  · exact absurd ((hu.kind_pos_of_getStatus hs).1.trans hs.symm) hne

/-- Settles O54: only the interpreter writes `POS` and `OP`, one of them at a time. -/
theorem trackedStateChangesOnlyByReceivedFrames : Obligations.TrackedStateChangesOnlyByReceivedFrames := by
  intro i s t h hne
  rcases exec_effect h with ⟨hi, -⟩ | ⟨m, v, rfl⟩ | ⟨-, f, rfl⟩ | ⟨hreads, u, m, hu, rfl⟩
  · exact absurd hi hne
  · simp
  · simp
  · refine ⟨fun hchanged => ⟨hreads, ?_⟩, fun hp => ?_, fun ho => ?_⟩
    · rcases hchanged with hp | ho
      · obtain ⟨-, -, -, hready, -⟩ := hu.of_pos_ne hp
        exact hready
      · exact (hu.of_op_ne ho).2.2
    · obtain ⟨hk, hk', hop, -, htrace⟩ := hu.of_pos_ne hp
      exact ⟨hk, hk', hop, htrace⟩
    · obtain ⟨hpos, hk, -⟩ := hu.of_op_ne ho
      exact ⟨hpos, hk⟩

/-- Settles O55: a diagnostic leaves `READY`, a well-formed frame sets it, and sending clears it with its `TX`. -/
theorem readyIsSetByFramesAndClearedBySending : Obligations.ReadyIsSetByFramesAndClearedBySending := by
  intro i s t h
  constructor
  · intro h0 h1
    have hne : t.ready ≠ s.ready := by simp [h0, h1]
    rcases exec_effect h with ⟨hi, -⟩ | ⟨m, v, rfl⟩ | ⟨-, f, rfl⟩ | ⟨hreads, u, m, hu, rfl⟩
    · exact .inl hi
    · exact absurd rfl hne
    · cases h1
    · rcases hu.output with ⟨-, htrace⟩ | ⟨-, hready, -⟩
      · refine .inr ⟨hreads, fun k (hdiag : u.trace = _) => ?_⟩
        rcases htrace with hnone | hpublish
        · simp [hnone] at hdiag
        · simp [hpublish] at hdiag
      · exact absurd hready hne
  · intro h1 h0
    have hne : t.ready ≠ s.ready := by simp [h0, h1]
    rcases exec_effect h with ⟨-, ht⟩ | ⟨m, v, rfl⟩ | ⟨hi, f, rfl⟩ | ⟨-, u, m, hu, rfl⟩
    · cases ht; cases h0
    · exact absurd rfl hne
    · exact ⟨hi, f, rfl⟩
    · rcases hu.output with ⟨hready, -⟩ | ⟨-, hready, -⟩
      · exact absurd (hready.trans h1.symm) hne
      · exact absurd hready hne

/-- Settles O56: nothing, a `TX`, a `PUBLISH` or a `DIAG`. -/
theorem oneOperationEmitsAtMostOneEvent : Obligations.OneOperationEmitsAtMostOneEvent := by
  intro i s t h
  refine ⟨?_, fun hne => ?_⟩
  · rintro rfl; cases h; rfl
  rcases exec_effect h with ⟨hi, -⟩ | ⟨m, v, rfl⟩ | ⟨-, f, rfl⟩ | ⟨-, u, m, hu, rfl⟩
  · exact absurd hi hne
  · exact .inl rfl
  · exact .inr ⟨_, rfl⟩
  · rcases hu.output with ⟨-, hnone | hpublish⟩ | ⟨⟨k, hdiag⟩, -⟩
    · exact .inl hnone
    · exact .inr ⟨_, hpublish⟩
    · exact .inr ⟨_, hdiag⟩

/-- Settles O44: `RESET` goes on from every state to the reset state of its configuration, with the ports as they
were. -/
theorem resetLeavesTheResetValues : Obligations.ResetLeavesTheResetValues :=
  fun _ => ⟨_, rfl, rfl, rfl, rfl, rfl, rfl, rfl, rfl, rfl, memRead_nil⟩

end Sys2Proof.Machine
end

section
/-! SUPPORT. One received byte, by whether it completes a frame: if not, it changes the buffer alone; if so, it is the
dispatch of that frame (42_assembler R131 to R139). -/

namespace Sys2Proof.Machine

variable {i : Instr} {s t : State} {b : Byte}

/-- Whether `b` may be stored at position `n` of a frame (42_assembler R131 to R135). -/
def expectedAt (c : Config) (b : Byte) : Nat → Bool
  | 0 => b == c.startMarker
  | 1 => b == c.addr0
  | 2 => b == c.addr1
  | 3 => b == c.classControl || b == c.classRead
  | _ => true

/-- The buffer after a byte that completes no frame (42_assembler R136, R139, R142). -/
def bufferAfter (c : Config) (m : Memory) (b : Byte) : Memory :=
  if c.rxbufCap = some m.length then [] else if expectedAt c b m.length then memAppend m b else []

theorem headerByte_eq (e : Bool) (b : Byte) (s : State) :
    headerByte e b s = s.setRxbuf (if e then memAppend s.rxbuf b else []) := by
  cases e <;> rfl

theorem append_rxBytes (s : State) (b : Byte) : (s.append b).rxBytes = s.rxBytes ++ [b] := memBytes_append _ _

/-- Without completion a byte changes the buffer alone, by the buffer and the configuration alone. -/
theorem execRxByte_of_not_completes (h : ¬ Completes s b) :
    execRxByte b s = .next (s.setRxbuf (bufferAfter s.cfg s.rxbuf b)) := by
  by_cases hcap : s.cfg.rxbufCap = some s.atCount
  · have hbuf : bufferAfter s.cfg s.rxbuf b = [] := if_pos hcap
    rw [hbuf]
    exact if_pos hcap
  · have hbuf : bufferAfter s.cfg s.rxbuf b = if expectedAt s.cfg b s.atCount then memAppend s.rxbuf b else [] :=
      if_neg hcap
    rw [hbuf, ← headerByte_eq, execRxByte, if_neg hcap]
    split
    case h_7 n hat =>
      have hv : ¬ validate (s.append b).rxBytes = true := fun hv =>
        h ⟨hcap, by omega, by rwa [← append_rxBytes]⟩
      rw [accumulate, if_neg hv, hat]
      rfl
    all_goals next hat => rw [hat]; rfl

/-- A completing byte is the dispatch of the frame it completes, with the buffer cleared after. -/
theorem execRxByte_of_completes (h : Completes s b) :
    execRxByte b s = withRxbuf [] (execDispatch (s.rxBytes ++ [b]) s) := by
  obtain ⟨hroom, hat, hv⟩ := h
  obtain ⟨n, hn⟩ := Nat.exists_eq_add_of_le' hat
  have hclear : execRxByte b s = clearAfter (execDispatch (s.rxBytes ++ [b]) (s.append b)) := by
    rw [execRxByte, if_neg hroom, hn]
    simp only [accumulate, append_rxBytes, hv, if_true]
  rw [hclear, State.append_eq, execDispatch_setRxbuf]
  cases execDispatch (s.rxBytes ++ [b]) s <;> rfl

theorem completes_congr (hcfg : t.cfg = s.cfg) (hbuf : t.rxbuf = s.rxbuf) : Completes t b ↔ Completes s b := by
  unfold Completes Room State.rxBytes State.atCount
  rw [hcfg, hbuf]

/-- A sending operation does not look at the buffer (43_command_encoder R161). -/
theorem exec_sendsOnly_setRxbuf (hi : sendsOnly i = true) (s : State) (m : Memory) :
    exec i (s.setRxbuf m) = withRxbuf m (exec i s) := by
  cases i <;> simp [sendsOnly] at hi
  case actSetpos p =>
    simp only [exec, execActSetpos]
    by_cases hp : p = s.pos
    · have hp' : p = (s.setRxbuf m).pos := hp
      simp only [if_pos hp, if_pos hp']
      split <;> rfl
    · have hp' : p ≠ (s.setRxbuf m).pos := hp
      simp only [if_neg hp, if_neg hp']
      split <;> rfl
  all_goals rfl

/-- Settles O58: the byte changes the buffer alone, by what sending leaves; sending does not look at the buffer. -/
theorem commandAndNonCompletingByteCommute : Obligations.CommandAndNonCompletingByteCommute := by
  intro i b s t hi h hnot
  rw [← not_completes_iff] at hnot
  obtain ⟨hcfg, hbuf⟩ : t.cfg = s.cfg ∧ t.rxbuf = s.rxbuf := by
    rcases exec_sendsOnly_next hi h with ⟨rfl, -⟩ | ⟨f, rfl⟩
    · exact ⟨rfl, rfl⟩
    · exact ⟨rfl, rfl⟩
  have hbyte : execRxByte b t = .next (t.setRxbuf (bufferAfter s.cfg s.rxbuf b)) := by
    rw [execRxByte_of_not_completes fun hc => hnot ((completes_congr hcfg hbuf).1 hc), hcfg, hbuf]
  have hsend : ∀ m, exec i (s.setRxbuf m) = .next (t.setRxbuf m) := fun m => by
    rw [exec_sendsOnly_setRxbuf hi, h]
    rfl
  exact ⟨_, _, execRxByte_of_not_completes hnot, hsend _, hbyte⟩

end Sys2Proof.Machine
end

section
/-! SUPPORT. Which inputs are refused: a position outside 0 to 1, and a status frame with no value byte or with one
that stands for no position (93_implementation_defined U1, U3, U5). -/

namespace Sys2Proof.Machine

variable {s : State} {b : Byte} {f : Bytes} {r : Refusal}

/-- A value byte without a position is 101 to 254 (44_interpreter R178). -/
theorem positionOfValue_none {v : Byte} (h : positionOfValue v = none) : 100 < v.toNat ∧ v ≠ 0xFF := by
  unfold positionOfValue at h
  split at h
  · cases h
  next hne =>
    split at h
    · cases h
    next hv => exact ⟨by omega, hne⟩

/-- Why a status frame is refused (44_interpreter R177, R178). -/
theorem interpretStatus_refused (h : interpretStatus f s = .refused r) :
    (r = .statusByteAbsent ∧ f.length ≤ s.cfg.statusValueOffset.toNat)
    ∨ ∃ v, r = .positionValueUndefined v ∧ f[s.cfg.statusValueOffset.toNat]? = some v
        ∧ s.kind = .getPosition ∧ 100 < v.toNat ∧ v ≠ 0xFF := by
  unfold interpretStatus at h
  split at h
  next habsent => cases h; exact .inl ⟨rfl, List.getElem?_eq_none_iff.1 habsent⟩
  next v hv =>
  split at h
  next hk =>
    rw [readPosition_eq] at h
    cases hp : positionOfValue v with
    | none => rw [hp] at h; cases h; exact .inr ⟨v, rfl, hv, hk, positionOfValue_none hp⟩
    | some new => rw [hp] at h; cases h
  next =>
    rw [readStatus_eq] at h
    split at h <;> cases h

/-- The interpreter refuses status frames only (44_interpreter R170, R172 to R176). -/
theorem execDispatch_refused (h : execDispatch f s = .refused r) :
    f[3]? ≠ some s.cfg.classControl ∧ interpretStatus f s = .refused r := by
  unfold execDispatch at h
  split at h
  · cases h
  next k hk =>
  split at h
  · split at h
    · cases h
    unfold interpretResponse respondMove at h
    split at h
    case h_4 => split at h <;> cases h
    all_goals cases h
  next hclass => exact ⟨by simpa [hk] using hclass, h⟩

/-- A refused byte completes a frame that the interpreter refuses (42_assembler R141). -/
theorem execRxByte_refused (h : execRxByte b s = .refused r) :
    Completes s b ∧ execDispatch (s.rxBytes ++ [b]) s = .refused r := by
  by_cases hc : Completes s b
  · rw [execRxByte_of_completes hc] at h
    refine ⟨hc, ?_⟩
    cases hd : execDispatch (s.rxBytes ++ [b]) s <;> rw [hd] at h <;> cases h
    rfl
  · rw [execRxByte_of_not_completes hc] at h
    cases h

/-- The command port is refused only at `ACT.SETPOS` of a position outside 0 to 1 (43_command_encoder R156). -/
theorem exec_decodeCmd_refused {w : CmdWord} (h : exec (decodeCmd w) s = .refused r) :
    r = .positionOutOfRange ∧ w.op = 0b010 ∧ (w.p < 0 ∨ 1 < w.p) := by
  unfold decodeCmd at h
  split at h
  case h_3 hop =>
    simp only [exec, execActSetpos] at h
    split at h
    · cases h
    next hrange =>
      cases h
      refine ⟨rfl, hop, ?_⟩
      simpa [positionInRange, not_and_or, or_iff_not_imp_left] using hrange
  all_goals cases h

/-- The class byte of a frame that completes in a state that meets the invariants (10_state R25). -/
theorem class_of_headerInv (hm : MemoryInv s) (hh : HeaderInv s) (hat : 6 ≤ s.atCount) :
    (s.rxBytes ++ [b])[3]? = some s.cfg.classControl ∨ (s.rxBytes ++ [b])[3]? = some s.cfg.classRead := by
  obtain ⟨-, -, -, hclass, -⟩ := hh
  have hlen : 3 < s.rxBytes.length := by
    rw [State.rxBytes, memBytes_length]
    exact Nat.lt_of_lt_of_le (by omega) hat
  rw [List.getElem?_append_left hlen, State.rxBytes, ← memRead_eq_getElem hm]
  exact hclass (by omega)

/-- Settles O52: the event that a refused step took is a command word or a completing byte. -/
theorem stepRefusesOnlyWhatHasNoMeaning : Obligations.StepRefusesOnlyWhatHasNoMeaning := by
  intro s r h
  unfold step at h
  split at h
  · cases h
  next w u hw =>
  obtain ⟨n, -, ⟨-, rfl, rfl⟩ | ⟨b, rest, hrx, rfl, rfl⟩ | ⟨c, rest, hcmd, rfl, rfl⟩⟩ := takeEvent_some hw
  · cases h
  · obtain ⟨hc, hd⟩ := execRxByte_refused h
    obtain ⟨hclass, hstatus⟩ := execDispatch_refused hd
    have hread : MemoryInv s → HeaderInv s → (s.rxBytes ++ [b])[3]? = some s.cfg.classRead := fun hm hh =>
      (class_of_headerInv hm hh hc.2.1).resolve_left hclass
    have hwhy := interpretStatus_refused hstatus
    exact .inr ⟨b, rest, hrx, hc, hclass, hread, hwhy⟩
  · obtain ⟨hr, hop, hp⟩ := exec_decodeCmd_refused h
    exact .inl ⟨hr, c, rest, hcmd, hop, hp⟩

end Sys2Proof.Machine
end

section
/-! SUPPORT. Runs of one operation from states that differ in `READY` and the trace only (10_state R30, R31,
41_serializer R123, 44_interpreter R183). -/

namespace Sys2Proof.Machine

variable {op op' : State → Outcome} {s : State}

/-- `s` with another `READY` and another trace. -/
def State.withOutput (s : State) (r : Bool) (tr : List OutEvent) : State := { s with ready := r, trace := tr }

@[simp] theorem State.withOutput_cfg (s : State) (r : Bool) (tr : List OutEvent) :
    (s.withOutput r tr).cfg = s.cfg := rfl

/-- From `s` with whatever `READY` and trace, `op` goes on to one and the same state, except that it appends `ev` to the
trace and writes `READY` as `w` says or leaves it; or from `s` it does not go on. -/
def AnswersAlike (op : State → Outcome) (s : State) : Prop :=
  (∃ (base : State) (ev : List OutEvent) (w : Option Bool),
    ∀ r tr, op (s.withOutput r tr) = .next (base.withOutput (w.getD r) (tr ++ ev)))
  ∨ ∀ t, op s ≠ .next t

theorem AnswersAlike.congr (h : ∀ r tr, op (s.withOutput r tr) = op' (s.withOutput r tr)) (h' : AnswersAlike op' s) :
    AnswersAlike op s := by
  rcases h' with ⟨base, ev, w, h'⟩ | hstop
  · exact .inl ⟨base, ev, w, fun r tr => (h r tr).trans (h' r tr)⟩
  · have hs : op s = op' s := h s.ready s.trace
    exact .inr fun t ht => hstop t (hs.symm.trans ht)

/-- `op` emits nothing and leaves `READY`. -/
theorem AnswersAlike.of_silent (base : State)
    (h : ∀ r tr, op (s.withOutput r tr) = .next (base.withOutput r tr)) :
    AnswersAlike op s :=
  .inl ⟨base, [], none, fun r tr => by rw [h, List.append_nil]; rfl⟩

theorem AnswersAlike.of_sendFrame (base : State) (k : Byte) (m : Bytes)
    (h : ∀ r tr, op (s.withOutput r tr) = .next (sendFrame k m (base.withOutput r tr))) : AnswersAlike op s :=
  .inl ⟨base, [.tx (ownFrame base.cfg k m)], some false, h⟩

theorem AnswersAlike.of_respond (o : OpState)
    (h : ∀ r tr, op (s.withOutput r tr) = .next (respond o (s.withOutput r tr))) : AnswersAlike op s :=
  .inl ⟨s.setOp o, [.publish o s.pos], some true, h⟩

theorem AnswersAlike.of_raise (k : DiagKind)
    (h : ∀ r tr, op (s.withOutput r tr) = .next ((s.withOutput r tr).raise k)) : AnswersAlike op s :=
  .inl ⟨s, [.diag k], none, h⟩

/-- Writing the buffer after does not make a difference. -/
theorem AnswersAlike.withRxbuf (m : Memory) (h : AnswersAlike op s) :
    AnswersAlike (fun x => Machine.withRxbuf m (op x)) s := by
  rcases h with ⟨base, ev, w, h⟩ | hstop
  · exact .inl ⟨base.setRxbuf m, ev, w, fun r tr => by simp only [h]; rfl⟩
  · refine .inr fun t ht => ?_
    cases ho : op s with
    | next u => exact hstop u ho
    | fault e => simp only [ho] at ht; cases ht
    | refused e => simp only [ho] at ht; cases ht

theorem answersAlike_respondMove (f : Bytes) (s : State) : AnswersAlike (respondMove f) s := by
  cases hf : f[5]? with
  | none => exact .inr fun t => by simp [respondMove, hf]
  | some t => exact .of_respond (direction t s.pos) fun r tr => by simp only [respondMove, hf]; rfl

theorem answersAlike_readPosition (v : Byte) (s : State) : AnswersAlike (readPosition v) s := by
  cases hv : positionOfValue v with
  | none => exact .inr fun t => by simp [readPosition, hv]
  | some new =>
    have hread : ∀ r tr, readPosition v (s.withOutput r tr) = .next (((s.setPos new).setKind .getStatus).withOutput
        true (if new = s.pos then tr else tr ++ [OutEvent.publish s.op new])) := fun r tr => by
      rw [readPosition_eq, hv]; rfl
    by_cases hp : new = s.pos
    · simp only [if_pos hp] at hread
      exact .inl ⟨_, [], some true, fun r tr => by rw [hread, List.append_nil]; rfl⟩
    · simp only [if_neg hp] at hread
      exact .inl ⟨_, _, some true, hread⟩

theorem answersAlike_readStatus (v : Byte) (s : State) : AnswersAlike (readStatus v) s := by
  cases hv : opOfCode v with
  | none => exact .of_raise .malformedStatus fun r tr => by rw [readStatus, hv]
  | some o =>
    exact .inl ⟨s.setOp o, [], some true, fun r tr => by rw [readStatus, hv, List.append_nil]; rfl⟩

theorem answersAlike_interpretStatus (f : Bytes) (s : State) : AnswersAlike (interpretStatus f) s := by
  cases hf : f[s.cfg.statusValueOffset.toNat]? with
  | none => exact .inr fun t => by simp [interpretStatus, hf]
  | some v =>
    have hf' : ∀ r tr, f[(s.withOutput r tr).cfg.statusValueOffset.toNat]? = some v := fun _ _ => hf
    cases hk : s.kind with
    | getPosition =>
      refine (answersAlike_readPosition v s).congr fun r tr => ?_
      have hk' : (s.withOutput r tr).kind = .getPosition := hk
      simp only [interpretStatus, hf', hk']
    | getStatus =>
      refine (answersAlike_readStatus v s).congr fun r tr => ?_
      have hk' : (s.withOutput r tr).kind = .getStatus := hk
      simp only [interpretStatus, hf', hk']

theorem answersAlike_interpretResponse (x : Byte) (f : Bytes) (s : State) : AnswersAlike (interpretResponse x f) s := by
  have hsub : ∀ r tr, subCommandOf (s.withOutput r tr).cfg x = subCommandOf s.cfg x := fun _ _ => rfl
  cases hx : subCommandOf s.cfg x with
  | none => exact .of_raise .malformedResponse fun r tr => by rw [interpretResponse, hsub, hx]
  | some c =>
    -- The wildcard is the remaining sub-command, open.
    cases c with
    | stop => exact .of_respond .idle fun r tr => by rw [interpretResponse, hsub, hx]
    | close => exact .of_respond .closing fun r tr => by rw [interpretResponse, hsub, hx]
    | setPosition => exact (answersAlike_respondMove f s).congr fun r tr => by rw [interpretResponse, hsub, hx]
    | _ => exact .of_respond .opening fun r tr => by rw [interpretResponse, hsub, hx]

theorem answersAlike_execDispatch (f : Bytes) (s : State) : AnswersAlike (execDispatch f) s := by
  cases h3 : f[3]? with
  | none => exact .inr fun t => by simp [execDispatch, h3]
  | some k =>
    by_cases hk : k = s.cfg.classControl
    · cases h4 : f[4]? with
      | none => exact .inr fun t => by simp [execDispatch, h3, hk, h4]
      | some x =>
        refine (answersAlike_interpretResponse x f s).congr fun r tr => ?_
        have hk' : k = (s.withOutput r tr).cfg.classControl := hk
        simp only [execDispatch, h3, if_pos hk', h4]
    · refine (answersAlike_interpretStatus f s).congr fun r tr => ?_
      have hk' : k ≠ (s.withOutput r tr).cfg.classControl := hk
      simp only [execDispatch, h3, if_neg hk']

theorem answersAlike_execRxByte (b : Byte) (s : State) : AnswersAlike (execRxByte b) s := by
  by_cases hc : Completes s b
  · have hc' : ∀ r tr, Completes (s.withOutput r tr) b := fun _ _ => (completes_congr rfl rfl).2 hc
    exact ((answersAlike_execDispatch (s.rxBytes ++ [b]) s).withRxbuf []).congr fun r tr =>
      execRxByte_of_completes (hc' r tr)
  · have hc' : ∀ r tr, ¬ Completes (s.withOutput r tr) b := fun _ _ h => hc ((completes_congr rfl rfl).1 h)
    exact .of_silent (s.setRxbuf (bufferAfter s.cfg s.rxbuf b)) fun r tr => execRxByte_of_not_completes (hc' r tr)

theorem answersAlike_execActSetpos (p : Rat) (s : State) : AnswersAlike (execActSetpos p) s := by
  cases hr : positionInRange p with
  | false => exact .inr fun t => by simp [execActSetpos, hr]
  | true =>
    by_cases hp : p = s.pos
    · exact .of_silent s fun r tr => by
        have hp' : p = (s.withOutput r tr).pos := hp
        rw [execActSetpos, if_pos hr, if_pos hp']
    · exact .of_sendFrame s s.cfg.classControl (movePayload s.cfg p) fun r tr => by
        have hp' : p ≠ (s.withOutput r tr).pos := hp
        rw [execActSetpos, if_pos hr, if_neg hp']; rfl

theorem answersAlike_exec {i : Instr} (hi : i ≠ .reset) (s : State) : AnswersAlike (exec i) s := by
  cases i
  case reset => exact absurd rfl hi
  case rxByte b => exact answersAlike_execRxByte b s
  case dispatch f => exact answersAlike_execDispatch f s
  case actSetpos p => exact answersAlike_execActSetpos p s
  case rStop => exact .of_respond .idle fun _ _ => rfl
  case rOpen => exact .of_respond .opening fun _ _ => rfl
  case rClose => exact .of_respond .closing fun _ _ => rfl
  case rSetpos rest =>
    exact answersAlike_respondMove (ownFrame s.cfg s.cfg.classControl (s.cfg.subSetPosition :: rest)) s
      |>.congr fun _ _ => by simp only [exec, execRSetpos, State.withOutput_cfg]
  case rBad => exact .of_raise .malformedResponse fun _ _ => rfl
  case sPos m | sStat m | sBad m =>
    exact (answersAlike_interpretStatus (ownFrame s.cfg s.cfg.classRead m) s).congr fun _ _ => by
      simp only [exec, execSPos, execSStat, execSBad, State.withOutput_cfg]
  case nop | reserved101 | reserved110 | reserved111 => exact .of_silent s fun _ _ => rfl
  case crcStep c b => exact .of_silent (s.setRet (.word (crcStep c b))) fun _ _ => rfl
  case checksum m => exact .of_silent (s.setRet (.word (checksum m))) fun _ _ => rfl
  case validate m => exact .of_silent (s.setRet (.truth (validate m))) fun _ _ => rfl
  case encode a0 a1 k m => exact .of_silent (s.setRet (.frame (encodeFrame s.cfg a0 a1 k m))) fun _ _ => rfl
  case txFrame k m => exact .of_sendFrame s k m fun _ _ => rfl
  case actStop | cStop => exact .of_sendFrame s s.cfg.classControl (payloadStop s.cfg) fun _ _ => rfl
  case cOpen => exact .of_sendFrame s s.cfg.classControl (payloadOpen s.cfg) fun _ _ => rfl
  case cClose => exact .of_sendFrame s s.cfg.classControl (payloadClose s.cfg) fun _ _ => rfl
  case cSetpos t => exact .of_sendFrame s s.cfg.classControl (payloadSetpos s.cfg t) fun _ _ => rfl
  case poll => exact .of_sendFrame s s.cfg.classRead (payloadPoll s.cfg s.kind) fun _ _ => rfl
  case pollPos =>
    exact .of_sendFrame (s.setKind .getPosition) s.cfg.classRead (payloadPoll s.cfg .getPosition) fun _ _ => rfl
  case qPos => exact .of_sendFrame s s.cfg.classRead (payloadPoll s.cfg .getPosition) fun _ _ => rfl
  case qStat => exact .of_sendFrame s s.cfg.classRead (payloadPoll s.cfg .getStatus) fun _ _ => rfl

/-- Settles O57: `RESET` overwrites both; every other instruction answers alike. -/
theorem blockReadsNeitherReadyNorTrace : Obligations.BlockReadsNeitherReadyNorTrace := by
  intro i s t r tr h
  by_cases hi : i = .reset
  · subst hi
    cases h
    exact ⟨_, rfl, rfl, rfl, rfl, rfl, rfl, rfl, ⟨rfl, rfl, rfl, rfl⟩, fun _ => ⟨rfl, rfl⟩, fun hne => absurd rfl hne,
      .inl rfl⟩
  · rcases answersAlike_exec hi s with ⟨base, ev, w, hrun⟩ | hstop
    · have ht : t = base.withOutput (w.getD s.ready) (s.trace ++ ev) := by
        have := h.symm.trans (hrun s.ready s.trace)
        cases this; rfl
      subst ht
      refine ⟨_, hrun r tr, rfl, rfl, rfl, rfl, rfl, rfl, ⟨rfl, rfl, rfl, rfl⟩, fun hreset => absurd hreset hi,
        fun _ => ⟨ev, rfl, rfl⟩, ?_⟩
      cases w with
      | none => exact .inr ⟨rfl, rfl⟩
      | some r' => exact .inl rfl
    · exact absurd h (hstop t)

end Sys2Proof.Machine
end

section
/-! SUPPORT. The buffer stays within a finite capacity: a byte is stored only where there is room (42_assembler R142). -/

namespace Sys2Proof.Machine

variable {i : Instr} {s t : State} {b : Byte}

/-- The capacity invariant speaks of the buffer and the configuration only. -/
theorem capacityInv_congr (hbuf : t.rxbuf = s.rxbuf) (hcfg : t.cfg = s.cfg) (h : CapacityInv s) : CapacityInv t := by
  unfold CapacityInv State.atCount at *
  rwa [hbuf, hcfg]

/-- Where there is room, a buffer within the capacity is below it, so one more byte fits. -/
theorem capacityInv_append (hc : CapacityInv s) (hroom : Room s) : CapacityInv (s.append b) := by
  intro n hn
  have hcap : s.cfg.rxbufCap = some n := hn
  have hle : s.atCount ≤ n := hc n hcap
  have hne : s.atCount ≠ n := fun heq => hroom (by rw [hcap, heq])
  have hat : (s.append b).atCount = s.atCount + 1 := memAppend_length _ _
  omega

theorem exec_keeps_capacityInv (hc : CapacityInv s) (h : exec i s = .next t) : CapacityInv t := by
  rcases exec_rxbuf h with hnil | hsame | ⟨b, ⟨hroom, -⟩, happ⟩
  · exact capacityInv_of_rxbuf_nil hnil
  · exact capacityInv_congr hsame (exec_cfg h) hc
  · have hcfg := exec_cfg h
    exact capacityInv_congr (s := s.append b) happ hcfg (capacityInv_append hc hroom)

/-- Settles O47: every instruction keeps each of the two, and taking an event touches neither the buffer nor the
capacity. -/
theorem everyStepKeepsTheBufferForm : Obligations.EveryStepKeepsTheBufferForm := by
  refine ⟨fun s t hm h => ?_, fun s t hc h => ?_⟩
  · exact step_keeps (fun _ _ _ _ _ hx => hx) (fun _ _ _ hx hy => exec_keeps_memoryInv hx hy) hm h
  · exact step_keeps (fun _ _ _ _ _ hx => hx) (fun _ _ _ hx hy => exec_keeps_capacityInv hx hy) hc h

end Sys2Proof.Machine
end

section
/-! SUPPORT. Whatever is offered together, one of the events offered is taken: the free choice falls on a source that
offers, and a source that offers has a word to take (20_memory R58, R63, log entry 5). -/

namespace Sys2Proof.Machine

variable {i : Instr} {s t : State} {src : Source}

/-- No instruction takes from the ports or makes a choice (20_memory R58). -/
theorem exec_samePorts (h : exec i s = .next t) : SamePorts s t := by
  rcases exec_effect h with ⟨-, ht⟩ | ⟨m, v, rfl⟩ | ⟨-, f, rfl⟩ | ⟨-, u, m, hu, rfl⟩
  · cases ht; exact ⟨rfl, rfl, rfl, rfl⟩
  · exact ⟨rfl, rfl, rfl, rfl⟩
  · exact ⟨rfl, rfl, rfl, rfl⟩
  · obtain ⟨-, -, -, hports⟩ := hu.frame
    exact hports

/-- However the free choice falls, it falls on one of the sources that offer: the index is below their number. -/
theorem arbitrate_mem (turn : Nat) {srcs : List Source} (h : srcs ≠ []) :
    ∃ src ∈ srcs, (arbitrate turn srcs).1 = some src := by
  match srcs, h with
  | [a], _ => exact ⟨a, List.mem_singleton_self a, rfl⟩
  | a :: b :: rest, _ =>
    have hlt : Config.freeChoice turn % (a :: b :: rest).length < (a :: b :: rest).length :=
      Nat.mod_lt _ (Nat.succ_pos _)
    exact ⟨_, List.getElem_mem hlt, List.getElem?_eq_getElem hlt⟩

theorem resetLine_mem_offers : .resetLine ∈ offers s ↔ s.resetReq = true := by simp [offers]

theorem rxPort_mem_offers : .rxPort ∈ offers s ↔ s.rxIn ≠ [] := by simp [offers]

theorem cmdPort_mem_offers : .cmdPort ∈ offers s ↔ s.cmdIn ≠ [] := by simp [offers]

/-- A source that offers has a next word, whatever the count of choices. -/
theorem takeFrom_isSome_of_mem_offers (h : src ∈ offers s) (n : Nat) :
    (takeFrom { s with turn := n } src).isSome = true := by
  cases src with
  | resetLine => simp [takeFrom, resetLine_mem_offers.1 h]
  | rxPort =>
    obtain ⟨b, rest, hrx⟩ := List.exists_cons_of_ne_nil (rxPort_mem_offers.1 h)
    simp [takeFrom, hrx]
  | cmdPort =>
    obtain ⟨w, rest, hcmd⟩ := List.exists_cons_of_ne_nil (cmdPort_mem_offers.1 h)
    simp [takeFrom, hcmd]

/-- Where a source offers an event, an event is taken. -/
theorem takeEvent_of_offers_ne_nil (h : offers s ≠ []) : ∃ w u, takeEvent s = some (w, u) := by
  obtain ⟨src, hmem, hsrc⟩ := arbitrate_mem s.turn h
  have htake : takeEvent s = takeFrom { s with turn := (arbitrate s.turn (offers s)).2 } src := by
    rw [takeEvent, ← Prod.mk.eta (p := arbitrate s.turn (offers s)), hsrc]
  obtain ⟨⟨w, u⟩, hw⟩ := Option.isSome_iff_exists.1 (takeFrom_isSome_of_mem_offers hmem _)
  exact ⟨w, u, htake.trans hw⟩

theorem offers_ne_nil (h : s.resetReq = true ∨ s.rxIn ≠ [] ∨ s.cmdIn ≠ []) : offers s ≠ [] := by
  rcases h with hreset | hrx | hcmd
  · exact List.ne_nil_of_mem (resetLine_mem_offers.2 hreset)
  · exact List.ne_nil_of_mem (rxPort_mem_offers.2 hrx)
  · exact List.ne_nil_of_mem (cmdPort_mem_offers.2 hcmd)

/-- Settles O60: an event is taken because one is offered, it is the next of its port, and the step runs it. -/
theorem stepTakesOneOfTheEventsOffered : Obligations.StepTakesOneOfTheEventsOffered := by
  refine ⟨fun i s t h => exec_samePorts h, fun s hoff => ?_⟩
  obtain ⟨w, u, hw⟩ := takeEvent_of_offers_ne_nil (offers_ne_nil hoff)
  have hstep := step_of_takeEvent_some hw
  obtain ⟨n, hn, ⟨hreset, rfl, rfl⟩ | ⟨b, rest, hrx, rfl, rfl⟩ | ⟨c, rest, hcmd, rfl, rfl⟩⟩ := takeEvent_some hw
  · exact ⟨n, hn, .inl ⟨hreset, hstep⟩⟩
  · exact ⟨n, hn, .inr (.inl ⟨b, rest, hrx, hstep⟩)⟩
  · exact ⟨n, hn, .inr (.inr ⟨c, rest, hcmd, hstep⟩)⟩

end Sys2Proof.Machine
end

section
/-! SUPPORT. Wire frames and their parts: a completed frame is the frame of its class and payload, and the header
decoder reads the two back (30_encoding R70, R71). -/

namespace Sys2Proof

open Sys2Proof.Machine

variable {c : Config} {f m : Bytes} {k : Byte}

/-- A completed frame has seven bytes or more, the header of this block, and validates (44_interpreter R170). -/
theorem completedFrame_iff :
    completedFrame c f = true ↔ 7 ≤ f.length ∧ f[0]? = some c.startMarker ∧ f[1]? = some c.addr0 ∧ f[2]? = some c.addr1
      ∧ (f[3]? = some c.classControl ∨ f[3]? = some c.classRead) ∧ validate f = true := by
  simp only [completedFrame, Bool.and_eq_true, Bool.or_eq_true, decide_eq_true_eq, and_assoc]
  exact Iff.rfl

/-- A completed frame is `ENCODE` of a legal class and of a payload that is not empty (30_encoding R70). -/
theorem exists_ownFrame_of_completedFrame (h : completedFrame c f = true) :
    ∃ k m, f = ownFrame c k m ∧ (k = c.classControl ∨ k = c.classRead) ∧ 1 ≤ m.length := by
  obtain ⟨hlen, h0, h1, h2, h3, hv⟩ := completedFrame_iff.1 h
  obtain ⟨body, rfl⟩ := (validate_iff_exists f).1 hv
  rw [List.length_append, crcBytes_length] at hlen
  match body, hlen with
  | b0 :: b1 :: b2 :: k :: x :: m, _ =>
    cases h0; cases h1; cases h2
    refine ⟨k, x :: m, rfl, ?_, Nat.succ_pos _⟩
    simpa using h3

/-- The header decoder reads back the class and the payload of a frame of this block. -/
theorem decodeHeader_ownFrame (hk : k = c.classControl ∨ k = c.classRead) (hm : 1 ≤ m.length) :
    decodeHeader c (ownFrame c k m) = .ok (k, m) := by
  have hlen : ¬ (ownFrame c k m).length < Config.minFrameRx := by rw [ownFrame_length, Config.minFrameRx]; omega
  have h0 : (ownFrame c k m)[0]? = some c.startMarker := rfl
  have h1 : (ownFrame c k m)[1]? = some c.addr0 := rfl
  have h2 : (ownFrame c k m)[2]? = some c.addr1 := rfl
  have hclass : ¬ ((ownFrame c k m)[3]? ≠ some c.classControl ∧ (ownFrame c k m)[3]? ≠ some c.classRead) := by
    rw [ownFrame_class, Option.some_inj.ne, Option.some_inj.ne]
    tauto
  have hv : validate (ownFrame c k m) = true := (validate_iff_exists _).2 ⟨_, rfl⟩
  have hpayload : ((ownFrame c k m).drop 4).take ((ownFrame c k m).length - 6) = m := by
    rw [ownFrame_length, Nat.add_sub_cancel_left]
    exact List.take_left
  rw [decodeHeader, if_neg hlen, if_neg (not_not.2 h0), if_neg (not_not.2 h1), if_neg (not_not.2 h2),
    if_neg hclass, if_pos hv, hpayload]
  rfl

/-- What the header decoder accepts is a completed frame. -/
theorem completedFrame_of_decodeHeader {p : Byte × Bytes} (h : decodeHeader c f = .ok p) :
    completedFrame c f = true := by
  unfold decodeHeader at h
  split_ifs at h with hlen h0 h1 h2 h3 hv
  exact completedFrame_iff.2
    ⟨not_lt.1 hlen, not_not.1 h0, not_not.1 h1, not_not.1 h2, by tauto, hv⟩

/-- What the header decoder accepts is the frame of the class and the payload it reads (30_encoding R70). -/
theorem eq_ownFrame_of_decodeHeader (h : decodeHeader c f = .ok (k, m)) :
    f = ownFrame c k m ∧ (k = c.classControl ∨ k = c.classRead) ∧ 1 ≤ m.length := by
  obtain ⟨k', m', rfl, hk, hm⟩ := exists_ownFrame_of_completedFrame (completedFrame_of_decodeHeader h)
  rw [decodeHeader_ownFrame hk hm] at h
  cases h
  exact ⟨rfl, hk, hm⟩

theorem decodeSent_ownFrame (hk : k = c.classControl ∨ k = c.classRead) (hm : 1 ≤ m.length) :
    decodeSent c (ownFrame c k m) = decodeSentPayload c k m := by
  rw [decodeSent, decodeHeader_ownFrame hk hm]

theorem decodeReceived_ownFrame (kind : ReqKind) (hk : k = c.classControl ∨ k = c.classRead) (hm : 1 ≤ m.length) :
    decodeReceived c kind (ownFrame c k m) = decodeReceivedPayload c kind k m := by
  rw [decodeReceived, decodeHeader_ownFrame hk hm]

/-- Bytes read as a sent row are a frame whose payload is read as that row (30_encoding R75). -/
theorem exists_ownFrame_of_decodeSent {i : Instr} (h : decodeSent c f = .ok i) :
    ∃ k m, f = ownFrame c k m ∧ (k = c.classControl ∨ k = c.classRead) ∧ decodeSentPayload c k m = .ok i := by
  unfold decodeSent at h
  split at h
  · cases h
  next k m hhead =>
    obtain ⟨rfl, hk, -⟩ := eq_ownFrame_of_decodeHeader hhead
    exact ⟨k, m, rfl, hk, h⟩

/-- Bytes read as a received row are a response, or a status frame (30_encoding R76). -/
theorem exists_ownFrame_of_decodeReceived {kind : ReqKind} {i : Instr} (h : decodeReceived c kind f = .ok i) :
    (∃ x rest, f = ownFrame c c.classControl (x :: rest) ∧ i = decodeResponse c x rest)
    ∨ (∃ m, c.classRead ≠ c.classControl ∧ 1 ≤ m.length
      ∧ f = ownFrame c c.classRead m ∧ i = decodeStatus c kind m) := by
  unfold decodeReceived at h
  split at h
  · cases h
  next k m hhead =>
    obtain ⟨rfl, hk, hm⟩ := eq_ownFrame_of_decodeHeader hhead
    unfold decodeReceivedPayload at h
    split at h
    next hc =>
      subst hc
      split at h
      · cases h
      next x rest => cases h; exact .inl ⟨x, rest, rfl, rfl⟩
    next hc =>
      obtain rfl := hk.resolve_left hc
      cases h
      exact .inr ⟨m, hc, hm, rfl, rfl⟩

end Sys2Proof
end

section
/-! SUPPORT. The conditions of a valid configuration, one by one (00_scope R7, R8), and the four sub-commands: each has
its own byte, and that byte is read as it (30_encoding R71). -/

namespace Sys2Proof

open Sys2Proof.Machine

variable {c : Config}

/-- A valid configuration meets R7 and R8. -/
theorem Config.valid_iff (c : Config) :
    c.valid = true ↔ c.classControl ≠ c.classRead ∧ [c.subStop, c.subOpen, c.subClose, c.subSetPosition].Nodup
      ∧ c.kindGetPosition ≠ c.kindGetStatus ∧ 4 ≤ c.statusValueOffset.toNat ∧ Config.capOk c.rxbufCap = true
      ∧ 0 ≤ c.posInit ∧ c.posInit ≤ 1 := by
  simp only [Config.valid, Bool.and_eq_true, decide_eq_true_eq, and_assoc]

/-- The two classes differ (00_scope R7). -/
theorem Config.classRead_ne_classControl (hv : c.valid = true) : c.classRead ≠ c.classControl :=
  ((Config.valid_iff c).1 hv).1.symm

/-- The two request kinds differ (00_scope R7). -/
theorem Config.kindGetStatus_ne_kindGetPosition (hv : c.valid = true) : c.kindGetStatus ≠ c.kindGetPosition := by
  obtain ⟨-, -, hkind, -⟩ := (Config.valid_iff c).1 hv
  exact hkind.symm

/-- A valid capacity has room for the shortest frame (00_scope R8). -/
theorem Config.fits_seven (hv : c.valid = true) : Fits c 7 := by
  obtain ⟨-, -, -, -, hcap, -⟩ := (Config.valid_iff c).1 hv
  intro cap hc
  rw [hc] at hcap
  exact of_decide_eq_true hcap

/-- The byte of a sub-command (30_encoding R71). -/
def Config.subByte (c : Config) : SubCommand → Byte
  | .stop        => c.subStop
  | .open        => c.subOpen
  | .close       => c.subClose
  | .setPosition => c.subSetPosition

/-- A byte read as a sub-command is its byte. -/
theorem eq_subByte_of_subCommandOf {x : Byte} {sub : SubCommand} (h : subCommandOf c x = some sub) :
    x = c.subByte sub := by
  unfold subCommandOf at h
  split_ifs at h with hstop hopen hclose hset <;> cases h
  exacts [hstop, hopen, hclose, hset]

/-- The byte of a sub-command is read as it, because the four bytes differ (00_scope R7). -/
theorem subCommandOf_subByte (hv : c.valid = true) (sub : SubCommand) :
    subCommandOf c (c.subByte sub) = some sub := by
  obtain ⟨-, hnodup, -⟩ := (Config.valid_iff c).1 hv
  simp only [List.nodup_cons, List.mem_cons, List.not_mem_nil, not_or] at hnodup
  obtain ⟨⟨hso, hsc, hss, -⟩, ⟨hoc, hos, -⟩, ⟨hcs, -⟩, -⟩ := hnodup
  match sub with
  | .stop => simp [subCommandOf, Config.subByte]
  | .open => simp [subCommandOf, Config.subByte, Ne.symm hso]
  | .close => simp [subCommandOf, Config.subByte, Ne.symm hsc, Ne.symm hoc]
  | .setPosition => simp [subCommandOf, Config.subByte, Ne.symm hss, Ne.symm hos, Ne.symm hcs]

end Sys2Proof
end

section
/-! SUPPORT. The encoder's inverse, by the three kinds of encoding (30_encoding R75, R76, R82). -/

namespace Sys2Proof

open Sys2Proof.Machine

variable {c : Config} {i : Instr} {f : Bytes} {kind : ReqKind}

/-- The port word of a row is read as the row (30_encoding R82). -/
theorem decodePort_of_encode {w : PortWord} (he : encode c i = some (.port w)) : decodePort w = i := by
  cases i <;> cases he <;> rfl

/-- A command frame of one payload byte is read as its row; a bare set-position is never sent (30_encoding R75). -/
theorem decodeSent_sub (hv : c.valid = true) (sub : SubCommand) :
    decodeSent c (ownFrame c c.classControl [c.subByte sub]) = match sub with
      | .stop => .ok .cStop
      | .open => .ok .cOpen
      | .close => .ok .cClose
      | .setPosition => .error .neverSent := by
  rw [decodeSent_ownFrame (.inl rfl) le_rfl, decodeSentPayload, if_pos rfl]
  simp only [subCommandOf_subByte hv]
  cases sub <;> rfl

theorem decodeSent_setpos {t : Byte} (hv : c.valid = true) (ht : t.toNat ≤ 100) :
    decodeSent c (ownFrame c c.classControl (payloadSetpos c t)) = .ok (.cSetpos t) := by
  have hset : subCommandOf c c.subSetPosition = some .setPosition := subCommandOf_subByte hv .setPosition
  rw [decodeSent_ownFrame (.inl rfl) (by simp [payloadSetpos])]
  exact (if_pos rfl).trans (if_pos ⟨hset, ht⟩)

/-- A poll is read as the row of the kind it asks for (30_encoding R75). -/
theorem decodeSent_poll (hv : c.valid = true) (kind : ReqKind) :
    decodeSent c (ownFrame c c.classRead (payloadPoll c kind)) = match kind with
      | .getPosition => .ok .qPos
      | .getStatus => .ok .qStat := by
  rw [decodeSent_ownFrame (.inr rfl) (by cases kind <;> simp [payloadPoll])]
  refine (if_neg (Config.classRead_ne_classControl hv)).trans ?_
  cases kind with
  | getPosition => exact if_pos rfl
  | getStatus =>
    have hne : payloadPoll c .getStatus ≠ payloadPoll c .getPosition := fun h =>
      Config.kindGetStatus_ne_kindGetPosition hv (List.cons.inj h).1
    exact (if_neg hne).trans (if_pos rfl)

/-- The frame of a sent row is read as the row (30_encoding R75). -/
theorem decodeSent_of_encode (hv : c.valid = true) (hwf : i.wf c = true) (he : encode c i = some (.sent f)) :
    decodeSent c f = .ok i := by
  cases i
  case cStop => cases he; exact decodeSent_sub hv .stop
  case cOpen => cases he; exact decodeSent_sub hv .open
  case cClose => cases he; exact decodeSent_sub hv .close
  case cSetpos t => cases he; exact decodeSent_setpos hv (of_decide_eq_true hwf)
  case qPos => cases he; exact decodeSent_poll hv .getPosition
  case qStat => cases he; exact decodeSent_poll hv .getStatus
  all_goals cases he

/-- A frame of class `CONTROL` is read as the response of its payload (30_encoding R76). -/
theorem decodeReceived_control (c : Config) (kind : ReqKind) (x : Byte) (rest : Bytes) :
    decodeReceived c kind (ownFrame c c.classControl (x :: rest)) = .ok (decodeResponse c x rest) :=
  (decodeReceived_ownFrame kind (.inl rfl) (by simp)).trans (if_pos rfl)

/-- A frame of class `READ` is read as the status frame of its payload (30_encoding R76). -/
theorem decodeReceived_read (hne : c.classRead ≠ c.classControl) (kind : ReqKind) {m : Bytes} (hm : 1 ≤ m.length) :
    decodeReceived c kind (ownFrame c c.classRead m) = .ok (decodeStatus c kind m) :=
  (decodeReceived_ownFrame kind (.inr rfl) hm).trans (if_neg hne)

/-- The frame of a sub-command is read as its response (30_encoding R76). -/
theorem decodeReceived_sub (hv : c.valid = true) (kind : ReqKind) (sub : SubCommand) (rest : Bytes) :
    decodeReceived c kind (ownFrame c c.classControl (c.subByte sub :: rest)) = .ok (match sub with
      | .stop => .rStop rest
      | .open => .rOpen rest
      | .close => .rClose rest
      | .setPosition => .rSetpos rest) := by
  rw [decodeReceived_control, decodeResponse, subCommandOf_subByte hv]
  cases sub <;> rfl

/-- A well-formed status row has a payload, and a value byte in its range (30_encoding R76). -/
theorem statusWf_iff {m : Bytes} {ok : Byte → Bool} :
    statusWf c m ok = true ↔ 1 ≤ m.length ∧ ∃ v, statusValue? c m = some v ∧ ok v = true := by
  rw [statusWf, Bool.and_eq_true, decide_eq_true_eq, Option.any_eq_true]

/-- The frame of a received row is read as the row, under the `KIND` of a status row (30_encoding R76). -/
theorem decodeReceived_of_encode (hv : c.valid = true) (hwf : i.wf c = true) (hread : readUnder kind i = true)
    (he : encode c i = some (.received f)) : decodeReceived c kind f = .ok i := by
  have status : ∀ {m : Bytes}, 1 ≤ m.length →
      decodeReceived c kind (ownFrame c c.classRead m) = .ok (decodeStatus c kind m) :=
    fun hm => decodeReceived_read (Config.classRead_ne_classControl hv) kind hm
  cases i
  case rStop rest => cases he; exact decodeReceived_sub hv kind .stop rest
  case rOpen rest => cases he; exact decodeReceived_sub hv kind .open rest
  case rClose rest => cases he; exact decodeReceived_sub hv kind .close rest
  case rSetpos rest => cases he; exact decodeReceived_sub hv kind .setPosition rest
  case rBad x rest =>
    cases he
    have hx : subCommandOf c x = none := by simpa [Instr.wf, isSubCommand] using hwf
    rw [decodeReceived_control, decodeResponse, hx]
  case sPos m =>
    cases he
    obtain ⟨hm, -⟩ := statusWf_iff.1 hwf
    obtain rfl : kind = .getPosition := of_decide_eq_true hread
    exact status hm
  case sStat m =>
    cases he
    obtain ⟨hm, v, hval, hok⟩ := statusWf_iff.1 hwf
    obtain rfl : kind = .getStatus := of_decide_eq_true hread
    have hle : v.toNat ≤ 2 := of_decide_eq_true hok
    rw [status hm, decodeStatus, hval, Option.any_some, if_neg (by simpa using by omega)]
  case sBad m =>
    cases he
    obtain ⟨hm, v, hval, hok⟩ := statusWf_iff.1 hwf
    obtain rfl : kind = .getStatus := of_decide_eq_true hread
    rw [status hm, decodeStatus, hval, Option.any_some, if_pos hok]
  all_goals cases he

/-- Settles O3: an encoding is a port word, a sent frame or a received frame, and each is read back. -/
theorem decodeOfEncodeIsTheInstruction : Obligations.DecodeOfEncodeIsTheInstruction := by
  intro c kind i e hv hwf hread he
  cases e with
  | port w => exact congrArg Except.ok (decodePort_of_encode he)
  | sent f => exact decodeSent_of_encode hv hwf he
  | received f => exact decodeReceived_of_encode hv hwf hread he

end Sys2Proof
end

section
/-! SUPPORT. The converse: bytes that are read as a row are that row's encoding, and the interpreter does with them what
the row does (30_encoding R75, R76, 44_interpreter R170). -/

namespace Sys2Proof

open Sys2Proof.Machine
open Sys2Proof.Laws.WireFrame (completedFrame_ownFrame)

variable {c : Config} {i : Instr} {f m : Bytes} {k : Byte}

/-- A payload read as a sent row is that row's (30_encoding R75). -/
theorem encode_of_decodeSentPayload (hk : k = c.classControl ∨ k = c.classRead)
    (h : decodeSentPayload c k m = .ok i) : encode c i = some (.sent (ownFrame c k m)) := by
  unfold decodeSentPayload at h
  split at h
  next hcontrol =>
    subst hcontrol
    split at h
    next x =>
      split at h <;> cases h
      all_goals next hsub => obtain rfl := eq_subByte_of_subCommandOf hsub; rfl
    next x t =>
      split at h <;> cases h
      next hsub => obtain rfl := eq_subByte_of_subCommandOf hsub.1; rfl
    · cases h
  next hcontrol =>
    obtain rfl := hk.resolve_left hcontrol
    split_ifs at h with hpos hstat <;> cases h
    · rw [hpos]; rfl
    · rw [hstat]; rfl

/-- A response is the row of its own payload (30_encoding R76). -/
theorem encode_decodeResponse (c : Config) (x : Byte) (rest : Bytes) :
    encode c (decodeResponse c x rest) = some (.received (ownFrame c c.classControl (x :: rest))) := by
  unfold decodeResponse
  cases hsub : subCommandOf c x with
  | none => rfl
  | some sub =>
    obtain rfl := eq_subByte_of_subCommandOf hsub
    cases sub <;> rfl

/-- The row a status frame is read as. -/
theorem decodeStatus_mem (c : Config) (kind : ReqKind) (m : Bytes) :
    decodeStatus c kind m ∈ [Instr.sPos m, .sStat m, .sBad m] := by
  cases kind with
  | getPosition => simp [decodeStatus]
  | getStatus => rw [decodeStatus]; split <;> simp

/-- The status rows are the same wire frames (30_encoding R76). -/
theorem encode_of_mem_status (h : i ∈ [Instr.sPos m, .sStat m, .sBad m]) :
    encode c i = some (.received (ownFrame c c.classRead m)) := by
  simp only [List.mem_cons, List.not_mem_nil, or_false] at h
  rcases h with rfl | rfl | rfl <;> rfl

/-- Settles O4: what is read as a row is a frame with that row's payload, and a completed frame has a payload to be
read. -/
theorem wireFramesHaveOneMeaning : Obligations.WireFramesHaveOneMeaning := by
  refine ⟨fun c f i h => ?_, fun c kind f i h => ?_, fun c kind f h => ?_⟩
  · obtain ⟨k, m, rfl, hk, hm⟩ := exists_ownFrame_of_decodeSent h
    exact encode_of_decodeSentPayload hk hm
  · obtain ⟨x, rest, rfl, rfl⟩ | ⟨m, -, hm, rfl, rfl⟩ := exists_ownFrame_of_decodeReceived h
    · exact ⟨encode_decodeResponse c x rest, completedFrame_ownFrame (.inl rfl) (by simp)⟩
    · exact ⟨encode_of_mem_status (decodeStatus_mem c kind m), completedFrame_ownFrame (.inr rfl) hm⟩
  · obtain ⟨k, m, rfl, hk, hm⟩ := exists_ownFrame_of_completedFrame h
    match m, hm with
    | x :: rest, hm =>
      by_cases hc : k = c.classControl
      · subst hc
        exact ⟨_, decodeReceived_control c kind x rest⟩
      · obtain rfl := hk.resolve_left hc
        exact ⟨_, decodeReceived_read hc kind hm⟩

variable {s : State}

/-- `DISPATCH` of a frame of class `CONTROL` is judged by byte 4 (44_interpreter R170). -/
theorem execDispatch_control (s : State) (x : Byte) (rest : Bytes) :
    execDispatch (ownFrame s.cfg s.cfg.classControl (x :: rest)) s
      = interpretResponse x (ownFrame s.cfg s.cfg.classControl (x :: rest)) s := by
  simp only [execDispatch, ownFrame_class, ownFrame_sub, if_true]

/-- `DISPATCH` of a frame of class `READ` is a status frame (44_interpreter R170). -/
theorem execDispatch_read (hne : s.cfg.classRead ≠ s.cfg.classControl) (m : Bytes) :
    execDispatch (ownFrame s.cfg s.cfg.classRead m) s = interpretStatus (ownFrame s.cfg s.cfg.classRead m) s := by
  simp only [execDispatch, ownFrame_class, if_neg hne]

/-- A response row, run, is what the interpreter does with its frame (44_interpreter R172 to R176). -/
theorem exec_decodeResponse (s : State) (x : Byte) (rest : Bytes) :
    exec (decodeResponse s.cfg x rest) s
      = interpretResponse x (ownFrame s.cfg s.cfg.classControl (x :: rest)) s := by
  unfold decodeResponse interpretResponse
  cases hsub : subCommandOf s.cfg x with
  | none => rfl
  | some sub =>
    obtain rfl := eq_subByte_of_subCommandOf hsub
    cases sub <;> rfl

/-- A status row, run, is what the interpreter does with its frame, whichever of the three it is (44_interpreter R178 to
R180, log entry 8). -/
theorem exec_of_mem_status (s : State) (h : i ∈ [Instr.sPos m, .sStat m, .sBad m]) :
    exec i s = interpretStatus (ownFrame s.cfg s.cfg.classRead m) s := by
  simp only [List.mem_cons, List.not_mem_nil, or_false] at h
  rcases h with rfl | rfl | rfl <;> rfl

/-- Settles O33: a response is judged by byte 4 and a status frame by `KIND`, by the decoder as by the
interpreter. -/
theorem dispatchRunsTheDecodedRow : Obligations.DispatchRunsTheDecodedRow := by
  intro s f i h
  obtain ⟨x, rest, rfl, rfl⟩ | ⟨m, hne, -, rfl, rfl⟩ := exists_ownFrame_of_decodeReceived h
  · exact (execDispatch_control s x rest).trans (exec_decodeResponse s x rest).symm
  · exact (execDispatch_read hne m).trans (exec_of_mem_status s (decodeStatus_mem _ _ m)).symm

end Sys2Proof
end

section
/-! SUPPORT. Frames received byte by byte: a frame of the block that does not end early is stored whole, and its
last byte is the dispatch of it (42_assembler R131 to R139). -/

namespace Sys2Proof.Machine

variable {s t : State} {f : Bytes}

theorem runOps_append {is js : List Instr} (h : runOps is s = .next t) : runOps (is ++ js) s = runOps js t := by
  induction is generalizing s with
  | nil => cases h; rfl
  | cons i is ih =>
    cases hi : exec i s with
    | next u => rw [runOps, hi] at h; rw [List.cons_append, runOps, hi]; exact ih h
    | fault r => rw [runOps, hi] at h; cases h
    | refused r => rw [runOps, hi] at h; cases h

theorem runOps_singleton (i : Instr) (s : State) : runOps [i] s = exec i s := by
  rw [runOps]
  cases exec i s <;> rfl

theorem rxAll_concat (w : Bytes) (b : Byte) : rxAll (w ++ [b]) = rxAll w ++ [.rxByte b] := List.map_append

theorem withRxbuf_withRxbuf (m n : Memory) (o : Outcome) : withRxbuf m (withRxbuf n o) = withRxbuf m o := by
  cases o <;> rfl

@[simp] theorem memOfBytes_concat (w : Bytes) (b : Byte) : memOfBytes (w ++ [b]) = memAppend (memOfBytes w) b :=
  List.foldl_append

@[simp] theorem memBytes_memOfBytes (w : Bytes) : memBytes (memOfBytes w) = w := memBytes_foldl w []

@[simp] theorem memOfBytes_length (w : Bytes) : (memOfBytes w).length = w.length := by
  rw [← memBytes_length, memBytes_memOfBytes]

/-- The header of a completed frame is what the assembler expects at each position (42_assembler R131 to R135). -/
theorem expectedAt_of_completedFrame {c : Config} (h : completedFrame c f = true) {n : Nat} (hn : n < f.length) :
    expectedAt c f[n] n = true := by
  obtain ⟨k, m, rfl, hk, -⟩ := exists_ownFrame_of_completedFrame h
  match n with
  | 0 => exact beq_self_eq_true c.startMarker
  | 1 => exact beq_self_eq_true c.addr0
  | 2 => exact beq_self_eq_true c.addr1
  | 3 =>
    show (k == c.classControl || k == c.classRead) = true
    simpa using hk
  | _ + 4 => rfl

section

variable (hbuf : s.rxbuf = []) (hf : completedFrame s.cfg f = true) (hfits : Fits s.cfg f.length) (hend : NoEarlyEnd f)

include hbuf hf hfits hend

/-- Before its last byte the frame is stored as far as it was received, and no register moves (42_assembler R139). -/
theorem runOps_rxAll_take (n : Nat) (hn : n < f.length) :
    runOps (rxAll (f.take n)) s = .next (s.setRxbuf (memOfBytes (f.take n))) := by
  induction n with
  | zero =>
    rw [List.take_zero]
    show Host.Outcome.next s = .next { s with rxbuf := [] }
    rw [← hbuf]
  | succ n ih =>
    have hlt : n < f.length := Nat.lt_of_succ_lt hn
    have hlen : (memOfBytes (f.take n)).length = n := by rw [memOfBytes_length, List.length_take_of_le hlt.le]
    have hbytes : (s.setRxbuf (memOfBytes (f.take n))).rxBytes = f.take n := memBytes_memOfBytes _
    have htake : f.take (n + 1) = f.take n ++ [f[n]] := List.take_succ_eq_append_getElem hlt
    have hnot : ¬ Completes (s.setRxbuf (memOfBytes (f.take n))) f[n] := by
      rintro ⟨-, hat, hv⟩
      have hmin : 6 ≤ n := hlen ▸ hat
      rw [hbytes, ← htake, hend (n + 1) (Nat.succ_le_succ hmin) hn] at hv
      cases hv
    have hroom : s.cfg.rxbufCap ≠ some n := fun hcap => (hfits n hcap).not_gt hlt
    have hstore : bufferAfter s.cfg (memOfBytes (f.take n)) f[n] = memOfBytes (f.take (n + 1)) := by
      rw [bufferAfter, hlen, if_neg hroom, if_pos (expectedAt_of_completedFrame hf hlt), htake, memOfBytes_concat]
    rw [← hstore, htake, rxAll_concat, runOps_append (ih hlt), runOps_singleton]
    exact execRxByte_of_not_completes hnot

/-- The whole frame, from an empty buffer, is its dispatch and an empty buffer again (42_assembler R138, R143). -/
theorem runOps_rxAll_completedFrame : runOps (rxAll f) s = withRxbuf [] (execDispatch f s) := by
  obtain ⟨hlen, -, -, -, -, hv⟩ := completedFrame_iff.1 hf
  obtain rfl | ⟨w, b, rfl⟩ := List.eq_nil_or_concat' f
  · exact absurd hlen (by simp)
  have hwlen : (w ++ [b]).length = w.length + 1 := List.length_append
  have hstored := runOps_rxAll_take hbuf hf hfits hend w.length (by omega)
  rw [List.take_left] at hstored
  have hat : (s.setRxbuf (memOfBytes w)).atCount = w.length := memOfBytes_length w
  have hbytes : (s.setRxbuf (memOfBytes w)).rxBytes = w := memBytes_memOfBytes w
  have hroom : s.cfg.rxbufCap ≠ some w.length := fun hcap => (hfits _ hcap).not_gt (by omega)
  have hcompletes : Completes (s.setRxbuf (memOfBytes w)) b := by
    rw [Completes, Room, hat, hbytes]
    exact ⟨hroom, by omega, hv⟩
  rw [rxAll_concat, runOps_append hstored, runOps_singleton]
  refine (execRxByte_of_completes hcompletes).trans ?_
  rw [hbytes, execDispatch_setRxbuf, withRxbuf_withRxbuf]

end

/-- The close command, sent from anywhere but the closed position (43_command_encoder R154). -/
theorem exec_actSetpos_zero (hpos : s.pos ≠ 0) :
    exec (.actSetpos 0) s = .next (sendFrame s.cfg.classControl (payloadClose s.cfg) s) := by
  have hrange : positionInRange 0 = true := by simp [positionInRange]
  have hmove : movePayload s.cfg 0 = payloadClose s.cfg := by rw [movePayload, if_neg zero_ne_one, if_pos rfl]
  rw [exec, execActSetpos, if_pos hrange, if_neg hpos.symm, hmove]

/-- The close frame, received from an empty buffer, is a close response (44_interpreter R174, 30_encoding R77). -/
theorem runOps_rxAll_closeFrame (hv : s.cfg.valid = true) (hbuf : s.rxbuf = []) :
    runOps (rxAll (ownFrame s.cfg s.cfg.classControl (payloadClose s.cfg))) s = .next { s with
      op := .closing, ready := true, trace := s.trace ++ [.publish .closing s.pos] } := by
  have hframe : completedFrame s.cfg (ownFrame s.cfg s.cfg.classControl (payloadClose s.cfg)) = true :=
    Laws.WireFrame.completedFrame_ownFrame (.inl rfl) le_rfl
  have hend : NoEarlyEnd (ownFrame s.cfg s.cfg.classControl (payloadClose s.cfg)) :=
    fun n hmin hlt => absurd (show 7 ≤ n from hmin) (Nat.not_le.2 hlt)
  have hsub : subCommandOf s.cfg s.cfg.subClose = some .close := subCommandOf_subByte hv .close
  rw [runOps_rxAll_completedFrame hbuf hframe (Config.fits_seven hv) hend, payloadClose, execDispatch_control,
    interpretResponse, hsub]
  simp [withRxbuf, respond_eq, State.setRxbuf, hbuf]

/-- Settles O42: the close command sends the close frame of seven bytes and leaves the buffer empty; received again, the
frame is a close response. -/
theorem closeCommandLoopedBack : Obligations.CloseCommandLoopedBack := by
  intro s hv hbuf hpos
  have hsend := exec_actSetpos_zero hpos
  refine ⟨_, hsend, rfl, ?_⟩
  rw [runOps, hsend]
  refine (runOps_rxAll_closeFrame (s := sendFrame _ _ s) hv hbuf).trans ?_
  simp [sendFrame_eq]

end Sys2Proof.Machine
end

section
/-! SUPPORT. The tables of the ports, of the sent frames and of the status frames, read off the facts above
(30_encoding R75, R76, R82). -/

namespace Sys2Proof

open Sys2Proof.Machine

/-- Settles O1: the decoder's table is that of R82. -/
theorem portCodesDecodeToTheirRows : Obligations.PortCodesDecodeToTheirRows :=
  ⟨fun _ => ⟨rfl, rfl, rfl, rfl, rfl, rfl, rfl, rfl⟩, fun _ => rfl, rfl⟩

/-- Settles O2: each of the frames is the encoding of its row under `REFCFG`, and an encoding is read back. -/
theorem wireFramesOfTheVectorsDecode : Obligations.WireFramesOfTheVectorsDecode :=
  have sent {i : Instr} {f : Bytes} := decodeSent_of_encode (i := i) (f := f) Config.ref_valid
  have received {i : Instr} {f : Bytes} {kind : ReqKind} :=
    decodeReceived_of_encode (i := i) (f := f) (kind := kind) Config.ref_valid
  ⟨sent rfl (by decide +kernel), sent rfl (by decide +kernel), sent rfl (by decide +kernel),
    received rfl rfl (by decide +kernel), received rfl rfl (by decide +kernel),
    received (by decide +kernel) rfl (by decide +kernel), received (by decide +kernel) rfl (by decide +kernel)⟩

/-- Settles O16: each row is `TX.FRAME` of its payload, which emits the frame and clears `READY` (`sendFrame_eq`). -/
theorem sentFramesCarryTheirPayload : Obligations.SentFramesCarryTheirPayload := by
  intro s
  have sends : ∀ k m, execTxFrame k m s = .next { s with
      trace := s.trace ++ [.tx (encodeFrame s.cfg s.cfg.addr0 s.cfg.addr1 k m)], ready := false } :=
    fun k m => congrArg Host.Outcome.next (sendFrame_eq k m s)
  exact ⟨sends _ _, sends _ _, sends _ _, fun _ => sends _ _, sends _ _, sends _ _⟩

/-- Settles O45: the four rows have the empty meaning of R82. -/
theorem nopAndReservedCodesChangeNothing : Obligations.NopAndReservedCodesChangeNothing :=
  fun _ => ⟨rfl, rfl, rfl, rfl⟩

section

variable {s : State} {m : Bytes} {v : Byte} {i : Instr} (hi : i ∈ [Instr.sPos m, .sStat m, .sBad m])
  (hval : statusValue? s.cfg m = some v)

include hi hval

/-- Under `GET_POSITION` a status row reads its value byte as a position (44_interpreter R177, R178). -/
theorem exec_status_of_getPosition (hkind : s.kind = .getPosition) : exec i s = readPosition v s := by
  have hbyte : (ownFrame s.cfg s.cfg.classRead m)[s.cfg.statusValueOffset.toNat]? = some v := hval
  simp only [exec_of_mem_status s hi, interpretStatus, hbyte, hkind]

/-- Under `GET_STATUS` a status row reads its value byte as a status code (44_interpreter R177, R179, R180). -/
theorem exec_status_of_getStatus (hkind : s.kind = .getStatus) : exec i s = readStatus v s := by
  have hbyte : (ownFrame s.cfg s.cfg.classRead m)[s.cfg.statusValueOffset.toNat]? = some v := hval
  simp only [exec_of_mem_status s hi, interpretStatus, hbyte, hkind]

end

/-- The position of the sentinel and of a percentage (44_interpreter R178). -/
theorem positionOfValue_eq_some {v : Byte} {new : Rat}
    (h : (v = 0xFF ∧ new = 1 / 2) ∨ (v.toNat ≤ 100 ∧ new = (v.toNat : Rat) / 100)) : positionOfValue v = some new := by
  obtain ⟨rfl, rfl⟩ | ⟨hv, rfl⟩ := h
  · rfl
  · have hne : v ≠ Config.posUnknown := by
      rintro rfl
      exact absurd hv (by decide)
    rw [positionOfValue, if_neg hne, if_pos hv, percent, Rat.mkRat_eq_div]
    norm_num

/-- The three status codes (44_interpreter R179). -/
theorem opOfCode_eq_some {v : Byte} {o : OpState}
    (h : (v = 0 ∧ o = .idle) ∨ (v = 1 ∧ o = .opening) ∨ (v = 2 ∧ o = .closing)) : opOfCode v = some o := by
  obtain ⟨rfl, rfl⟩ | ⟨rfl, rfl⟩ | ⟨rfl, rfl⟩ := h <;> rfl

/-- Every other code is malformed (44_interpreter R180). -/
theorem opOfCode_eq_none {v : Byte} (h : 3 ≤ v.toNat) : opOfCode v = none := by
  have h0 : v ≠ 0 := by rintro rfl; exact absurd h (by decide)
  have h1 : v ≠ 1 := by rintro rfl; exact absurd h (by decide)
  have h2 : v ≠ 2 := by rintro rfl; exact absurd h (by decide)
  rw [opOfCode, if_neg h0, if_neg h1, if_neg h2]

/-- Settles O31: the three rows are the dispatch of one frame, whose value byte is read as `KIND` says. -/
theorem statusRowsComplete : Obligations.StatusRowsComplete := by
  refine ⟨fun s m hv i hi => ?_, fun s m v hval => ⟨fun hkind new hnew => ?_, fun hkind o ho => ?_, fun hkind h3 => ?_⟩⟩
  · exact (exec_of_mem_status s hi).trans (execDispatch_read (Config.classRead_ne_classControl hv) m).symm
  · rw [exec_status_of_getPosition (by simp) hval hkind, readPosition_eq, positionOfValue_eq_some hnew]
  · rw [exec_status_of_getStatus (by simp) hval hkind, readStatus_eq, opOfCode_eq_some ho]
  · rw [exec_status_of_getStatus (by simp) hval hkind, readStatus_eq, opOfCode_eq_none h3]

end Sys2Proof
end

section
/-! SUPPORT. The algebra of `CRC.STEP` (40_crc R101): injective in the running value and in the byte, and a step by the
low byte shifts the high byte down without the polynomial. -/

namespace Sys2Proof.Machine

@[simp] theorem crcBits_zero (n : Nat) : crcBits n 0 = 0 := by
  induction n with
  | zero => rfl
  | succ n ih => exact ih

theorem crcStep_injective_value (b : Byte) : Function.Injective fun c => crcStep c b :=
  fun _ _ h => (BitVec.xor_left_inj _).1 (crcBits_injective 8 h)

theorem crcStep_injective_byte (c : Word16) : Function.Injective (crcStep c) := by
  intro x y h
  have hw : x.setWidth 16 = y.setWidth 16 := (BitVec.xor_right_inj _).1 (crcBits_injective 8 h)
  simpa using congrArg (BitVec.setWidth 8) hw

/-- Settles O6: the loop is injective and the byte enters by xor; an injective map of a finite type is onto. -/
theorem crcStepIsBijectiveInTheValueAndInjectiveInTheByte :
    Obligations.CrcStepIsBijectiveInTheValueAndInjectiveInTheByte :=
  ⟨fun b => Finite.injective_iff_bijective.1 (crcStep_injective_value b), crcStep_injective_byte⟩

/-- The loop sends zero alone to zero, so a step reaches zero exactly when the byte cancels the value (R106). -/
theorem crcStep_eq_zero_iff {c : Word16} {b : Byte} : crcStep c b = 0 ↔ c = b.setWidth 16 :=
  ((crcBits_injective 8).eq_iff' (crcBits_zero 8)).trans BitVec.xor_eq_zero_iff

/-- An iteration on a value shifted left by one shifts it back, without the polynomial. -/
theorem crcBit_shiftLeft_one {c : Word16} (hc : c.toNat * 2 < 2 ^ 16) : crcBit (c <<< 1) = c := by
  have hlow : (c <<< 1).getLsbD 0 = false := by simp
  rw [crcBit, hlow, if_neg Bool.false_ne_true]
  apply BitVec.eq_of_toNat_eq
  simp only [BitVec.toNat_ushiftRight, BitVec.toNat_shiftLeft, Nat.shiftLeft_eq, Nat.shiftRight_eq_div_pow]
  omega

/-- The loop undoes a left shift that loses no bit: no 1 reaches bit 0 before the last iteration (R106). -/
theorem crcBits_shiftLeft {n : Nat} {c : Word16} (hc : c.toNat * 2 ^ n < 2 ^ 16) : crcBits n (c <<< n) = c := by
  induction n with
  | zero => simp [crcBits]
  | succ n ih =>
    have hn : c.toNat * 2 ^ n * 2 < 2 ^ 16 := by rwa [Nat.mul_assoc, ← Nat.pow_succ]
    have hlt : c.toNat * 2 ^ n < 2 ^ 16 := by omega
    have hshift : (c <<< n).toNat = c.toNat * 2 ^ n := by
      rw [BitVec.toNat_shiftLeft, Nat.shiftLeft_eq, Nat.mod_eq_of_lt hlt]
    rw [crcBits, BitVec.shiftLeft_add, crcBit_shiftLeft_one (by rwa [hshift]), ih hlt]

/-- A 16-bit value is its high byte over its low byte (00_scope R10). -/
theorem eq_halves_iff {c : Word16} {x y : Byte} :
    c = y.setWidth 16 <<< 8 ^^^ x.setWidth 16 ↔ x = lo8 c ∧ y = hi8 c := by
  have hlo : lo8 (y.setWidth 16 <<< 8 ^^^ x.setWidth 16) = x := by
    apply BitVec.eq_of_getLsbD_eq
    intro i hi
    simp [lo8, hi, show i < 16 by omega]
  have hhi : hi8 (y.setWidth 16 <<< 8 ^^^ x.setWidth 16) = y := by
    apply BitVec.eq_of_getLsbD_eq
    intro i hi
    simp [hi8, hi, show 8 + i < 16 by omega]
  constructor
  · rintro rfl
    exact ⟨hlo.symm, hhi.symm⟩
  · rintro ⟨hx, hy⟩
    exact halves_ext (hlo.trans hx).symm (hhi.trans hy).symm

/-- A step leaves a bare byte exactly when it folds in the low byte, and that byte is then the high one (R106). -/
theorem crcStep_eq_setWidth_iff {c : Word16} {x y : Byte} :
    crcStep c x = y.setWidth 16 ↔ x = lo8 c ∧ y = hi8 c := by
  have hy : crcBits 8 (y.setWidth 16 <<< 8) = y.setWidth 16 := crcBits_shiftLeft (by simp; omega)
  calc crcStep c x = y.setWidth 16
    _ ↔ c ^^^ x.setWidth 16 = y.setWidth 16 <<< 8 := (crcBits_injective 8).eq_iff' hy
    _ ↔ c = y.setWidth 16 <<< 8 ^^^ x.setWidth 16 := by
      rw [← BitVec.xor_left_inj (x.setWidth 16), BitVec.xor_assoc, BitVec.xor_self, BitVec.xor_zero]
    _ ↔ x = lo8 c ∧ y = hi8 c := eq_halves_iff

end Sys2Proof.Machine
end

section
/-! SUPPORT. `CHECKSUM` and `VALIDATE` (40_crc R102 to R109): the checksum is a fold, and a sequence of two bytes or
more validates exactly when it folds to zero. -/

namespace Sys2Proof.Machine

theorem crcFrom_append (c : Word16) (s t : Bytes) : crcFrom c (s ++ t) = crcFrom (crcFrom c s) t := List.foldl_append

theorem checksum_append (s t : Bytes) : checksum (s ++ t) = crcFrom (checksum s) t := crcFrom_append _ s t

/-- Settles O7: the checksum is a left fold. -/
theorem checksumIsIncremental : Obligations.ChecksumIsIncremental :=
  ⟨fun s b => checksum_append s [b], checksum_append⟩

/-- The running value before a sequence is determined by the one after it (R109). -/
theorem crcFrom_injective (s : Bytes) : Function.Injective fun c => crcFrom c s := by
  induction s with
  | nil => exact Function.injective_id
  | cons b s ih => exact ih.comp (crcStep_injective_value b)

/-- Folding in two bytes reaches zero for one pair only, low byte first (R106). -/
theorem checksum_append_two_eq_zero_iff {m : Bytes} {x y : Byte} :
    checksum (m ++ [x, y]) = 0 ↔ x = lo8 (checksum m) ∧ y = hi8 (checksum m) := by
  rw [checksum_append, crcFrom_cons, crcFrom_cons, crcFrom_nil, crcStep_eq_zero_iff, crcStep_eq_setWidth_iff]

/-- The checksum field, byte by byte (R103). -/
theorem eq_crcBytes_iff {m : Bytes} {x y : Byte} :
    [x, y] = crcBytes m ↔ x = lo8 (checksum m) ∧ y = hi8 (checksum m) := by
  simp [crcBytes]

theorem validate_append_two_iff {m : Bytes} {x y : Byte} :
    validate (m ++ [x, y]) = true ↔ x = lo8 (checksum m) ∧ y = hi8 (checksum m) := by
  rw [validate_append_two, decide_eq_true_iff, eq_crcBytes_iff]

/-- Settles O9: the two bytes are compared with the checksum of what stands before them. -/
theorem exactlyOneTailValidates : Obligations.ExactlyOneTailValidates := fun _ _ _ => validate_append_two_iff

theorem two_le_length_of_validate {s : Bytes} (h : validate s = true) : 2 ≤ s.length := by
  obtain ⟨m, rfl⟩ := (validate_iff_exists s).1 h
  simp

/-- Settles O12: a sequence that validates holds its two checksum bytes. -/
theorem validateOfFewerThanTwoBytesIsFalse : Obligations.ValidateOfFewerThanTwoBytesIsFalse :=
  fun _ hs => Bool.eq_false_iff.2 fun h => absurd (two_le_length_of_validate h) (Nat.not_le.2 hs)

theorem exists_append_two {s : Bytes} (hs : 2 ≤ s.length) : ∃ m x y, s = m ++ [x, y] := by
  obtain ⟨x, y, htail⟩ : ∃ x y, s.drop (s.length - 2) = [x, y] := List.length_eq_two.1 (by simp; omega)
  exact ⟨s.take (s.length - 2), x, y, by rw [← htail, List.take_append_drop]⟩

/-- The residue test (R106). -/
theorem validate_iff_checksum_eq_zero {s : Bytes} (hs : 2 ≤ s.length) : validate s = true ↔ checksum s = 0 := by
  obtain ⟨m, x, y, rfl⟩ := exists_append_two hs
  rw [validate_append_two_iff, checksum_append_two_eq_zero_iff]

theorem checksum_eq_zero_of_validate {s : Bytes} (h : validate s = true) : checksum s = 0 :=
  (validate_iff_checksum_eq_zero (two_le_length_of_validate h)).1 h

theorem checksum_append_crcBytes (m : Bytes) : checksum (m ++ crcBytes m) = 0 :=
  checksum_append_two_eq_zero_iff.2 ⟨rfl, rfl⟩

/-- Settles O8: two steps reach zero exactly when they fold in the low and the high byte of the checksum. -/
theorem residueLaw : Obligations.ResidueLaw :=
  ⟨checksum_append_crcBytes, fun _ _ _ => checksum_append_two_eq_zero_iff.trans eq_crcBytes_iff.symm,
    fun _ => validate_iff_checksum_eq_zero⟩

/-- Settles O10: both sequences would fold to zero, so the two bytes would leave the same running value. -/
theorem singleByteErrorIsDetected : Obligations.SingleByteErrorIsDetected := by
  intro pre post x y hne hx
  refine Bool.eq_false_iff.2 fun hy => hne ?_
  have hfold : ∀ z, validate (pre ++ z :: post) = true → crcFrom (crcStep (checksum pre) z) post = 0 := by
    intro z hz
    rw [← crcFrom_cons, ← checksum_append]
    exact checksum_eq_zero_of_validate hz
  exact crcStep_injective_byte _ (crcFrom_injective post ((hfold x hx).trans (hfold y hy).symm))

/-- Zero bytes leave the running value zero as it is (R104). -/
theorem crcFrom_zero_replicate (n : Nat) : crcFrom 0 (List.replicate n 0x00) = 0 := by
  induction n with
  | zero => rfl
  | succ n ih => exact ih

/-- Settles O11: only the start value zero folds zero bytes to zero, and `CRC_INIT` is not zero. -/
theorem zeroRunsNeverValidate : Obligations.ZeroRunsNeverValidate := by
  intro n _
  refine Bool.eq_false_iff.2 fun h => ?_
  have hzero : crcFrom Config.crcInit (List.replicate n 0x00) = 0 := checksum_eq_zero_of_validate h
  have hinit : Config.crcInit = 0 := crcFrom_injective _ (hzero.trans (crcFrom_zero_replicate n).symm)
  exact absurd hinit (by decide)

/-- Settles O5: each value is computed by the loop. -/
theorem crcWorkedExamples : Obligations.CrcWorkedExamples := by
  unfold Obligations.CrcWorkedExamples
  decide +kernel

end Sys2Proof.Machine
end

section
/-! SUPPORT. `ENCODE` (41_serializer R120, R121) and the four function rows (40_crc R110). -/

namespace Sys2Proof.Machine

variable {c : Config} {a0 a1 k b0 b1 l : Byte} {m n : Bytes}

theorem frameBody_inj (h : frameBody c a0 a1 k m = frameBody c b0 b1 l n) : a0 = b0 ∧ a1 = b1 ∧ k = l ∧ m = n := by
  simpa [frameBody] using h

/-- The checksum field has two bytes in every frame, so equal frames have equal bodies (R121). -/
theorem encodeFrame_inj (h : encodeFrame c a0 a1 k m = encodeFrame c b0 b1 l n) :
    a0 = b0 ∧ a1 = b1 ∧ k = l ∧ m = n :=
  frameBody_inj (List.append_inj_left' h rfl)

theorem encodeFrame_length (c : Config) (a0 a1 k : Byte) (m : Bytes) :
    (encodeFrame c a0 a1 k m).length = 6 + m.length := by
  simp +arith [encodeFrame, frameBody]

/-- Settles O13: a frame is its body and the body's checksum field. -/
theorem encodeLayoutAndInjectivity : Obligations.EncodeLayoutAndInjectivity :=
  ⟨fun c a0 a1 k m => ⟨encodeFrame_length c a0 a1 k m, rfl, rfl, rfl, rfl, List.take_left,
    (validate_iff_exists _).2 ⟨_, rfl⟩, checksum_append_crcBytes _⟩, fun _ _ _ _ _ _ _ _ _ => encodeFrame_inj⟩

/-- Settles O14: each row writes `ret` and nothing else. -/
theorem functionRowsReturnTheirValueAndTouchNothing : Obligations.FunctionRowsReturnTheirValueAndTouchNothing :=
  fun _ => ⟨fun _ _ => rfl, fun _ => rfl, fun _ => rfl, fun _ _ _ _ => rfl⟩

end Sys2Proof.Machine
end

section
/-! SUPPORT. `TX.FRAME` (41_serializer R122). -/

namespace Sys2Proof.Machine

/-- Settles O15: the row sends the frame for `ADDR` (`ownFrame_eq`), which writes the trace and `READY` only
(`sendFrame_eq`). -/
theorem txFrameEmitsAndClearsReady : Obligations.TxFrameEmitsAndClearsReady := by
  intro s k m
  have hsend : exec (.txFrame k m) s = .next (sendFrame k m s) := rfl
  rw [hsend, sendFrame_eq, ownFrame_eq]

end Sys2Proof.Machine
end

section
/-! SUPPORT. `RX.BYTE` position by position, and the two runs of bytes that store no frame or store everything: noise
before a start marker, and bytes after a frame that never validates (42_assembler R131 to R143, 70_reset_and_hazards
R227). -/

namespace Sys2Proof.Machine

variable {s : State} {b : Byte} {n : Nat}

/-- Only the four header positions are checked (42_assembler R135). -/
theorem expectedAt_of_four_le (c : Config) (b : Byte) (hn : 4 ≤ n) : expectedAt c b n = true := by
  obtain ⟨k, rfl⟩ := Nat.exists_eq_add_of_le' hn
  rfl

/-- With room, a byte that is expected at its position and completes no frame is stored. -/
theorem exec_rxByte_store (hroom : Room s) (hat : s.atCount = n) (he : expectedAt s.cfg b n = true)
    (hnot : ¬ Completes s b) : exec (.rxByte b) s = .next { s with rxbuf := memAppend s.rxbuf b } := by
  subst hat
  have hbuf : bufferAfter s.cfg s.rxbuf b = memAppend s.rxbuf b := (if_neg hroom).trans (if_pos he)
  exact (execRxByte_of_not_completes hnot).trans (by rw [hbuf]; rfl)

/-- A byte that is not the one expected at a header position empties the buffer, whether or not there is room
(42_assembler R136, R142). -/
theorem exec_rxByte_discard (hat : s.atCount = n) (he : expectedAt s.cfg b n = false) :
    exec (.rxByte b) s = .next { s with rxbuf := [] } := by
  subst hat
  have hheader : s.atCount < 4 := by
    refine Nat.lt_of_not_le fun hle => ?_
    rw [expectedAt_of_four_le _ _ hle] at he
    cases he
  have hbuf : bufferAfter s.cfg s.rxbuf b = [] := by
    have he' : ¬ expectedAt s.cfg b s.rxbuf.length = true := Bool.eq_false_iff.1 he
    rw [bufferAfter, if_neg he', ite_self]
  exact (execRxByte_of_not_completes (not_completes_iff.2 (.inl (by omega)))).trans (by rw [hbuf]; rfl)

/-- Before the seventh byte no buffer is validated, so an expected byte is stored (42_assembler R131 to R135). -/
theorem exec_rxByte_store_of_lt_six (hroom : Room s) (hat : s.atCount = n) (hn : n < 6)
    (he : expectedAt s.cfg b n = true) : exec (.rxByte b) s = .next { s with rxbuf := memAppend s.rxbuf b } :=
  exec_rxByte_store hroom hat he (not_completes_iff.2 (.inl (hat ▸ hn)))

theorem rxbuf_eq_nil_of_atCount (h : s.atCount = 0) : s.rxbuf = [] := List.length_eq_zero_iff.1 h

/-- From an empty buffer, a byte that is not the start marker leaves the state as it was (42_assembler R131). -/
theorem exec_rxByte_noise (hbuf : s.rxbuf = []) (hb : b ≠ s.cfg.startMarker) : exec (.rxByte b) s = .next s := by
  have hat : s.atCount = 0 := congrArg List.length hbuf
  rw [exec_rxByte_discard hat (beq_eq_false_iff_ne.2 hb), ← hbuf]

/-- Settles O35: at each header position the expected byte is stored, and any other empties the buffer, which at
`AT = 0` is empty already. -/
theorem headerBytesAreCheckedOneByOne : Obligations.HeaderBytesAreCheckedOneByOne := by
  intro s b hroom
  refine ⟨fun hat hb => ?_, fun hat hb => ?_, fun hat hb => ?_, fun hat hb => ?_, fun hat hb => ?_, fun hat hb => ?_,
    fun hat hb => ?_, fun hat hc hr => ?_⟩
  · exact exec_rxByte_store_of_lt_six hroom hat (by decide) (beq_iff_eq.2 hb)
  · exact exec_rxByte_noise (rxbuf_eq_nil_of_atCount hat) hb
  · exact exec_rxByte_store_of_lt_six hroom hat (by decide) (beq_iff_eq.2 hb)
  · exact exec_rxByte_discard hat (beq_eq_false_iff_ne.2 hb)
  · exact exec_rxByte_store_of_lt_six hroom hat (by decide) (beq_iff_eq.2 hb)
  · exact exec_rxByte_discard hat (beq_eq_false_iff_ne.2 hb)
  · exact exec_rxByte_store_of_lt_six hroom hat (by decide) (by simpa [expectedAt] using hb)
  · exact exec_rxByte_discard hat (by simp [expectedAt, hc, hr])

/-- Settles O36: every byte is expected at these positions, and neither is the seventh. -/
theorem positionsFourAndFiveTakeAnyByte : Obligations.PositionsFourAndFiveTakeAnyByte := by
  intro s b hroom hat
  exact exec_rxByte_store_of_lt_six hroom rfl (by omega) (expectedAt_of_four_le _ _ (by omega))

/-- Settles O37: every byte is expected past the header, and this one does not complete the frame. -/
theorem checksumPendingKeepsTheBuffer : Obligations.ChecksumPendingKeepsTheBuffer := by
  intro s b hroom hat hv
  exact exec_rxByte_store hroom rfl (expectedAt_of_four_le _ _ (by omega)) (not_completes_iff.2 (.inr (.inr hv)))

/-- Settles O38: the completing byte has the outcome of the dispatch, with the buffer of its next state emptied. -/
theorem completionDispatchesAndClears : Obligations.CompletionDispatchesAndClears := by
  intro s b hroom hat hv
  have hrx : exec (.rxByte b) s = withRxbuf [] (exec (.dispatch (s.rxBytes ++ [b])) s) :=
    execRxByte_of_completes ⟨hroom, hat, hv⟩
  refine ⟨fun t ht => ?_, fun r hr => ?_⟩
  · rw [hrx, ht]; rfl
  · rw [hrx, hr]; rfl

/-- Settles O39: the capacity is tested before the position. -/
theorem capacityForcesAFullReset : Obligations.CapacityForcesAFullReset := fun _ _ hcap => if_pos hcap

/-- Bytes other than the start marker, received from an empty buffer, leave the state as it was (42_assembler R143). -/
theorem runOps_rxAll_noise (hbuf : s.rxbuf = []) {noise : Bytes} (hnoise : ∀ w ∈ noise, w ≠ s.cfg.startMarker) :
    runOps (rxAll noise) s = .next s := by
  induction noise with
  | nil => rfl
  | cons b noise ih =>
    obtain ⟨hb, hrest⟩ := List.forall_mem_cons.1 hnoise
    have hfirst : runOps [.rxByte b] s = .next s := (runOps_singleton _ _).trans (exec_rxByte_noise hbuf hb)
    exact (runOps_append hfirst).trans (ih hrest)

/-- Settles O41: the noise leaves the state as it was, the frame is its dispatch with the buffer emptied after, and the
dispatch leaves the empty buffer empty. -/
theorem resynchronisationAfterNoise : Obligations.ResynchronisationAfterNoise := by
  intro s noise m k hbuf hnoise hk hm hend hfits
  have hframe : completedFrame s.cfg (ownFrame s.cfg k m) = true := Laws.WireFrame.completedFrame_ownFrame hk hm
  rw [← encodeFrame_length s.cfg s.cfg.addr0 s.cfg.addr1 k m] at hfits
  have hempty : s.setRxbuf [] = s := by rw [State.setRxbuf, ← hbuf]
  calc runOps (rxAll (noise ++ ownFrame s.cfg k m)) s
      = runOps (rxAll (ownFrame s.cfg k m)) s := by
        rw [rxAll, List.map_append]
        exact runOps_append (runOps_rxAll_noise hbuf hnoise)
    _ = withRxbuf [] (execDispatch (ownFrame s.cfg k m) s) := runOps_rxAll_completedFrame hbuf hframe hfits hend
    _ = execDispatch (ownFrame s.cfg k m) s := by rw [← execDispatch_setRxbuf, hempty]

/-- Past the header and without a capacity, bytes none of which completes a frame are appended in order, and nothing
else changes (42_assembler R139). -/
theorem runOps_rxAll_stuck {w : Bytes} (hat : 6 ≤ s.atCount) (hcap : s.cfg.rxbufCap = none)
    (hv : ∀ n, 1 ≤ n → n ≤ w.length → validate (s.rxBytes ++ w.take n) = false) :
    runOps (rxAll w) s = .next (s.setRxbuf (w.foldl memAppend s.rxbuf)) := by
  induction w generalizing s with
  | nil => rfl
  | cons b w ih =>
    have hroom : Room s := by simp [Room, hcap]
    have hstore : runOps [.rxByte b] s = .next (s.append b) :=
      (runOps_singleton _ _).trans
        (checksumPendingKeepsTheBuffer s b hroom hat (hv 1 le_rfl (Nat.succ_le_succ (Nat.zero_le _))))
    have hlen : (s.append b).atCount = s.atCount + 1 := memAppend_length _ _
    have hv' : ∀ n, 1 ≤ n → n ≤ w.length → validate ((s.append b).rxBytes ++ w.take n) = false := by
      intro n _ hle
      rw [append_rxBytes, List.append_assoc]
      exact hv (n + 1) (Nat.le_add_left _ _) (Nat.succ_le_succ hle)
    exact (runOps_append hstore).trans (ih (by omega) hcap hv')

/-- Settles O43: the run writes the buffer alone, and appends to it all the bytes. -/
theorem stuckReceiverKeepsEverything : Obligations.StuckReceiverKeepsEverything := by
  intro s w hat hcap hv
  exact ⟨_, runOps_rxAll_stuck hat hcap hv, memBytes_foldl w s.rxbuf, rfl, rfl, rfl, rfl, rfl⟩

end Sys2Proof.Machine
end

section
/-! SUPPORT. The command encoder: the rounding of a target position, what `ACT.SETPOS` does inside 0 to 1, at its ends and
outside it, and the two polls (43_command_encoder R151 to R159). -/

namespace Sys2Proof.Machine

variable {s : State} {p x : Rat}

theorem positionInRange_iff : positionInRange p = true ↔ 0 ≤ p ∧ p ≤ 1 := by simp [positionInRange]

/-- The whole part of `x + 1/2` (00_scope R14), of which `roundHalfUp` is the division of numerators. -/
theorem roundHalfUp_eq_floor (hx : 0 ≤ x) : roundHalfUp x = ⌊x + 1 / 2⌋₊ := by
  have hden : (x.den : Rat) ≠ 0 := Nat.cast_ne_zero.2 x.den_nz
  have hnum : (x.num.toNat : Rat) = x * x.den := by
    rw [Rat.mul_den_eq_num, ← Int.cast_natCast, Int.toNat_of_nonneg (Rat.num_nonneg.2 hx)]
  have hsum : x + 1 / 2 = ((2 * x.num.toNat + x.den : Nat) : Rat) / (2 * x.den : Nat) := by
    push_cast
    rw [hnum]
    field_simp
  rw [hsum, Nat.floor_div_eq_div, roundHalfUp]

theorem roundHalfUp_nearest (hx : 0 ≤ x) :
    (roundHalfUp x : Rat) - 1 / 2 ≤ x ∧ x < (roundHalfUp x : Rat) + 1 / 2 := by
  have hlow : (⌊x + 1 / 2⌋₊ : Rat) ≤ x + 1 / 2 := Nat.floor_le (by linarith)
  have hhigh : x + 1 / 2 < (⌊x + 1 / 2⌋₊ : Rat) + 1 := Nat.lt_floor_add_one _
  rw [roundHalfUp_eq_floor hx]
  constructor <;> linarith

/-- Rounding does not pass an integer bound, so a percentage rounds to at most 100 (43_command_encoder R155). -/
theorem roundHalfUp_le {n : Nat} (hx : 0 ≤ x) (hn : x ≤ n) : roundHalfUp x ≤ n := by
  rw [roundHalfUp_eq_floor hx, ← Nat.lt_succ_iff, Nat.floor_lt (by linarith), Nat.cast_succ]
  linarith

theorem movePayload_one (c : Config) : movePayload c 1 = payloadOpen c := if_pos rfl

theorem movePayload_of_interior (c : Config) (h0 : 0 < p) (h1 : p < 1) :
    movePayload c p = payloadSetpos c (targetByte p) := by
  rw [movePayload, if_neg h1.ne, if_neg h0.ne']

/-- Past the guard, `ACT.SETPOS` sends the frame of the move (43_command_encoder R152). -/
theorem exec_actSetpos_of_ne (h0 : 0 ≤ p) (h1 : p ≤ 1) (hp : p ≠ s.pos) :
    exec (.actSetpos p) s = .next (sendFrame s.cfg.classControl (movePayload s.cfg p) s) := by
  rw [exec, execActSetpos, if_pos (positionInRange_iff.2 ⟨h0, h1⟩), if_neg hp]

/-- Settles O20: between the ends a move is sent, and its target byte is the rounding of `p * 100`, which lies in 0 to
100. -/
theorem actSetposMovesToTheNearestPercent : Obligations.ActSetposMovesToTheNearestPercent := by
  intro s p h0 h1 hp
  have hx : 0 ≤ p * 100 := by linarith
  have hx' : p * 100 ≤ (100 : Nat) := by push_cast; linarith
  obtain ⟨hlow, hhigh⟩ := roundHalfUp_nearest hx
  refine ⟨roundHalfUp (p * 100), roundHalfUp_le hx hx', hlow, hhigh, encodeFrame_length _ _ _ _ _, ?_⟩
  rw [exec_actSetpos_of_ne h0.le h1.le hp, movePayload_of_interior s.cfg h0 h1, sendFrame_eq]
  rfl

/-- Settles O17: the row has no guard, and sending writes the trace and `READY` only (`sendFrame_eq`). -/
theorem actStopAlwaysSends : Obligations.ActStopAlwaysSends :=
  fun s => congrArg Host.Outcome.next (sendFrame_eq s.cfg.classControl (payloadStop s.cfg) s)

/-- Settles O18: in range, the guard is tested before anything is sent. -/
theorem actSetposGuardChangesNothing : Obligations.ActSetposGuardChangesNothing := by
  intro s p h0 h1 hp
  rw [exec, execActSetpos, if_pos (positionInRange_iff.2 ⟨h0, h1⟩), if_pos hp]

/-- Settles O19: past the guard, the move to 1 is the open frame and the move to 0 the close frame; each payload has one
byte. -/
theorem actSetposOpensAndCloses : Obligations.ActSetposOpensAndCloses := by
  intro s
  refine ⟨fun hpos => ?_, fun hpos => ?_, encodeFrame_length _ _ _ _ _, encodeFrame_length _ _ _ _ _⟩
  · rw [exec_actSetpos_of_ne zero_le_one le_rfl hpos.symm, movePayload_one, sendFrame_eq]
    rfl
  · rw [exec_actSetpos_zero hpos, sendFrame_eq]
    rfl

/-- Settles O21: the range is tested before the guard. -/
theorem actSetposOutOfRangeIsRefused : Obligations.ActSetposOutOfRangeIsRefused := by
  intro s p hout
  have hrange : ¬ positionInRange p = true := fun h => by
    obtain ⟨h0, h1⟩ := positionInRange_iff.1 h
    exact hout.elim h0.not_gt h1.not_gt
  rw [exec, execActSetpos, if_neg hrange]

/-- A poll is the frame for the kind that `KIND` holds; sending it does not write `KIND` (43_command_encoder R158). -/
theorem exec_poll {kind : ReqKind} (hkind : s.kind = kind) :
    exec .poll s = .next { s with
      trace := s.trace ++ [.tx (ownFrame s.cfg s.cfg.classRead (payloadPoll s.cfg kind))], ready := false } := by
  subst hkind
  rw [exec, execPoll, sendFrame_eq]

/-- Settles O22: the payload of the poll is read off the table of the request kinds. -/
theorem pollAsksForTheCurrentKind : Obligations.PollAsksForTheCurrentKind :=
  fun _ => ⟨exec_poll, exec_poll⟩

/-- Settles O23: the frame is sent from the state that already holds `GET_POSITION`. -/
theorem pollPosReturnsToPosition : Obligations.PollPosReturnsToPosition := by
  intro s
  rw [exec, execPollPos, sendFrame_eq]
  rfl

end Sys2Proof.Machine
end

section
/-! SUPPORT. The interpreter, by what is read of the frame: the class byte, then the sub-command or, as `KIND` says, the
value byte (44_interpreter R170 to R180). -/

namespace Sys2Proof.Machine

variable {s : State} {f : Bytes} {x t v : Byte}

/-- A target byte above `POS * 100` is a move that opens (44_interpreter R175). -/
theorem direction_of_gt {pos : Rat} (h : (t.toNat : Rat) > pos * 100) : direction t pos = .opening := if_pos h

/-- Any other target byte is a move that closes (44_interpreter R175). -/
theorem direction_of_le {pos : Rat} (h : (t.toNat : Rat) ≤ pos * 100) : direction t pos = .closing := if_neg h.not_gt

/-- A move is a response with the direction of frame byte 5 (44_interpreter R171, R175). -/
theorem respondMove_eq (h5 : f[5]? = some t) : respondMove f s = .next { s with
    op := direction t s.pos, ready := true, trace := s.trace ++ [.publish (direction t s.pos) s.pos] } := by
  rw [respondMove, h5]
  rfl

/-- What a response with sub-command `sub` writes to `OP` while the position is `pos` (44_interpreter R172 to R175);
none for a move in a frame with no byte 5. -/
def responseOp (f : Bytes) (pos : Rat) : SubCommand → Option OpState
  | .stop        => some .idle
  | .open        => some .opening
  | .close       => some .closing
  | .setPosition => f[5]?.map (direction · pos)

/-- A response frame writes `OP`, sets `READY` and publishes (44_interpreter R172 to R175). -/
theorem interpretResponse_eq {sub : SubCommand} {o : OpState} (hsub : subCommandOf s.cfg x = some sub)
    (ho : responseOp f s.pos sub = some o) : interpretResponse x f s = .next { s with
      op := o, ready := true, trace := s.trace ++ [.publish o s.pos] } := by
  rw [interpretResponse, hsub]
  match sub, ho with
  | .stop, rfl => rfl
  | .open, rfl => rfl
  | .close, rfl => rfl
  | .setPosition, ho =>
    obtain ⟨t, h5, rfl⟩ := Option.map_eq_some_iff.1 ho
    exact respondMove_eq h5

/-- A byte that is none of the four sub-commands (44_interpreter R176). -/
theorem subCommandOf_eq_none {c : Config} (hstop : x ≠ c.subStop) (hopen : x ≠ c.subOpen) (hclose : x ≠ c.subClose)
    (hset : x ≠ c.subSetPosition) : subCommandOf c x = none := by
  rw [subCommandOf, if_neg hstop, if_neg hopen, if_neg hclose, if_neg hset]

/-- A frame of class `CONTROL` is a response (44_interpreter R170). -/
theorem exec_dispatch_control (h3 : f[3]? = some s.cfg.classControl) (h4 : f[4]? = some x) :
    exec (.dispatch f) s = interpretResponse x f s := by
  simp only [exec, execDispatch, h3, if_true, h4]

/-- A frame of class `READ` is a status frame, because the classes differ (44_interpreter R170, 00_scope R7). -/
theorem exec_dispatch_read (hv : s.cfg.valid = true) (h3 : f[3]? = some s.cfg.classRead) :
    exec (.dispatch f) s = interpretStatus f s := by
  simp only [exec, execDispatch, h3, if_neg (Config.classRead_ne_classControl hv)]

/-- Under `GET_POSITION` the value byte is read as a position (44_interpreter R177, R178). -/
theorem interpretStatus_of_getPosition (hval : f[s.cfg.statusValueOffset.toNat]? = some v)
    (hkind : s.kind = .getPosition) : interpretStatus f s = readPosition v s := by
  simp only [interpretStatus, hval, hkind]

/-- Under `GET_STATUS` the value byte is read as a status code (44_interpreter R177, R179, R180). -/
theorem interpretStatus_of_getStatus (hval : f[s.cfg.statusValueOffset.toNat]? = some v)
    (hkind : s.kind = .getStatus) : interpretStatus f s = readStatus v s := by
  simp only [interpretStatus, hval, hkind]

/-- A value byte of 101 to 254 stands for no position (44_interpreter R178). -/
theorem positionOfValue_eq_none (hv : 100 < v.toNat) (hne : v ≠ 0xFF) : positionOfValue v = none := by
  rw [positionOfValue, if_neg (show v ≠ Config.posUnknown from hne), if_neg hv.not_ge]

/-- Settles O28: byte 4 is read as the sub-command whose byte it is, because the four bytes differ
(`subCommandOf_subByte`), and the sub-command fixes what is written to `OP`. -/
theorem dispatchOfResponses : Obligations.DispatchOfResponses := by
  intro s f hv h3
  have responds : ∀ (sub : SubCommand) {o : OpState}, f[4]? = some (s.cfg.subByte sub) →
      responseOp f s.pos sub = some o → exec (.dispatch f) s = .next { s with
        op := o, ready := true, trace := s.trace ++ [.publish o s.pos] } := fun sub _ h4 ho =>
    (exec_dispatch_control h3 h4).trans (interpretResponse_eq (subCommandOf_subByte hv sub) ho)
  refine ⟨fun h4 => responds .stop h4 rfl, fun h4 => responds .open h4 rfl, fun h4 => responds .close h4 rfl,
    fun t h4 h5 hgt => responds .setPosition h4 ?_, fun t h4 h5 hle => responds .setPosition h4 ?_,
    fun x h4 hstop hopen hclose hset => ?_⟩
  · rw [responseOp, h5, Option.map_some, direction_of_gt hgt]
  · rw [responseOp, h5, Option.map_some, direction_of_le hle]
  · rw [exec_dispatch_control h3 h4, interpretResponse, subCommandOf_eq_none hstop hopen hclose hset]
    rfl

/-- Settles O29: the value byte is read as a position (`readPosition_eq`); where the position is the old one, writing it
changes nothing. -/
theorem dispatchOfPositionStatus : Obligations.DispatchOfPositionStatus := by
  intro s f v hv h3 hval hkind
  rw [exec_dispatch_read hv h3, interpretStatus_of_getPosition hval hkind, readPosition_eq]
  refine ⟨fun new hnew => ?_, fun hhigh hne => ?_⟩
  · rw [positionOfValue_eq_some hnew]
    refine ⟨fun hp => ?_, fun hp => ?_⟩
    · simp only [if_neg hp]
    · subst hp
      simp only [if_true]
  · rw [positionOfValue_eq_none hhigh hne]

/-- Settles O30: the value byte is read as a status code, 0 to 2 or none. -/
theorem dispatchOfOperationStatus : Obligations.DispatchOfOperationStatus := by
  intro s f v hv h3 hval hkind
  rw [exec_dispatch_read hv h3, interpretStatus_of_getStatus hval hkind, readStatus_eq]
  refine ⟨fun h0 => ?_, fun h1 => ?_, fun h2 => ?_, fun h => ?_⟩
  · rw [opOfCode_eq_some (.inl ⟨h0, rfl⟩)]
  · rw [opOfCode_eq_some (.inr (.inl ⟨h1, rfl⟩))]
  · rw [opOfCode_eq_some (.inr (.inr ⟨h2, rfl⟩))]
  · rw [opOfCode_eq_none h]

/-- Settles O25: each row is the response of its sub-command (`respond_eq`). -/
theorem stopOpenCloseResponsesSetOp : Obligations.StopOpenCloseResponsesSetOp := by
  intro s rest
  have responds : ∀ o, Host.Outcome.next (respond o s) = .next (φ := Fault) (ρ := Refusal) { s with
      op := o, ready := true, trace := s.trace ++ [.publish o s.pos] } :=
    fun o => congrArg Host.Outcome.next (respond_eq o s)
  exact ⟨responds .idle, responds .opening, responds .closing⟩

/-- Settles O26: the row is the move of its own frame, whose byte 5 is `t` (`ownFrame_target`). -/
theorem setposResponseJudgesTheDirection : Obligations.SetposResponseJudgesTheDirection := by
  rintro s rest t rfl
  rw [exec, execRSetpos, respondMove_eq (ownFrame_target _ _ _ rest)]
  exact ⟨fun hgt => by rw [direction_of_gt hgt], fun hle => by rw [direction_of_le hle]⟩

/-- Settles O27: the row raises the diagnostic, which emits it and writes no register. -/
theorem malformedResponseOnlyDiagnoses : Obligations.MalformedResponseOnlyDiagnoses := fun s _ _ =>
  congrArg Host.Outcome.next (State.raise_eq s .malformedResponse)

/-- Settles O32: the value byte is looked for before `KIND` is looked at. -/
theorem missingValueByteIsRefused : Obligations.MissingValueByteIsRefused := by
  intro s f hv h3 hlen
  rw [exec_dispatch_read hv h3, interpretStatus, List.getElem?_eq_none hlen]

end Sys2Proof.Machine
end

section
/-! SUPPORT. Where a fault can come from: a dispatched frame too short to hold byte 3, 4 or 5, and nothing else; a frame
that a received byte completes has seven bytes or more (44_interpreter R170, R171, 60_exceptions R190). -/

namespace Sys2Proof.Machine

variable {s : State} {f : Bytes} {r : Fault}

/-- A move faults only in a frame with no byte 5 (44_interpreter R171). -/
theorem respondMove_fault (h : respondMove f s = .fault r) : f.length ≤ 5 := by
  unfold respondMove at h
  split at h
  · cases h
  next h5 => exact List.getElem?_eq_none_iff.1 h5

/-- A response faults only as a move (44_interpreter R172 to R176). -/
theorem interpretResponse_fault {x : Byte} (h : interpretResponse x f s = .fault r) : respondMove f s = .fault r := by
  unfold interpretResponse at h
  split at h
  case h_4 => exact h
  all_goals cases h

/-- A status frame is refused or goes on (44_interpreter R177 to R180). -/
theorem interpretStatus_ne_fault : interpretStatus f s ≠ .fault r := by
  intro h
  unfold interpretStatus at h
  split at h
  · cases h
  next =>
  split at h
  · rw [readPosition_eq] at h
    split at h <;> cases h
  · rw [readStatus_eq] at h
    split at h <;> cases h

/-- The interpreter faults only on a frame in which one of the bytes 3, 4 and 5 is absent (44_interpreter R170, R171). -/
theorem execDispatch_fault (h : execDispatch f s = .fault r) : f.length ≤ 5 := by
  unfold execDispatch at h
  split at h
  next h3 => exact (List.getElem?_eq_none_iff.1 h3).trans (by decide)
  next =>
  split at h
  · split at h
    next h4 => exact (List.getElem?_eq_none_iff.1 h4).trans (by decide)
    next => exact respondMove_fault (interpretResponse_fault h)
  · exact absurd h interpretStatus_ne_fault

/-- A completed frame holds the six bytes of the buffer and one more (42_assembler R137). -/
theorem Completes.length_ge {b : Byte} (h : Completes s b) : 7 ≤ (s.rxBytes ++ [b]).length := by
  obtain ⟨-, hat, -⟩ := h
  rw [List.length_append, State.rxBytes, memBytes_length]
  exact Nat.succ_le_succ hat

/-- No received byte faults: it changes the buffer alone, or completes a frame that holds every byte the interpreter
reads (42_assembler R141, 44_interpreter R171). -/
theorem execRxByte_ne_fault (b : Byte) : execRxByte b s ≠ .fault r := by
  intro h
  by_cases hc : Completes s b
  · have hlen := hc.length_ge
    rw [execRxByte_of_completes hc] at h
    cases hd : execDispatch (s.rxBytes ++ [b]) s with
    | fault e => exact absurd (execDispatch_fault hd) (by omega)
    | next u => rw [hd] at h; cases h
    | refused e => rw [hd] at h; cases h
  · rw [execRxByte_of_not_completes hc] at h
    cases h

/-- No command faults: `ACT.SETPOS` goes on or is refused, and every other code goes on (43_command_encoder R150). -/
theorem exec_decodeCmd_ne_fault (w : CmdWord) : exec (decodeCmd w) s ≠ .fault r := by
  intro h
  unfold decodeCmd at h
  split at h
  case h_3 =>
    simp only [exec, execActSetpos] at h
    split at h <;> cases h
  all_goals cases h

/-- Settles O51: by the port of the event taken; an idle step and `RESET` go on. -/
theorem noStepFaults : Obligations.NoStepFaults := by
  intro s r h
  cases hev : takeEvent s with
  | none => rw [step_of_takeEvent_none hev] at h; cases h
  | some taken =>
    obtain ⟨w, t⟩ := taken
    rw [step_of_takeEvent_some hev] at h
    cases w with
    | reset => cases h
    | rx b => exact execRxByte_ne_fault b h
    | cmd c => exact exec_decodeCmd_ne_fault c h

end Sys2Proof.Machine
end
